-- ==== Sys2Proof/Word.lean ====
section
/-! DEFINITION. The widths of the block's words, each named once. -/

namespace Sys2Proof

/-- The unit of every bus access (R84), a command tag (R111), a port code and operand (R120). -/
abbrev Byte := BitVec 8

/-- A parameter word of a command (R111), a 32-bit register (R23, R25, R26), a raw matrix element
(R39). -/
abbrev Word := BitVec 32

/-- A full bus address (R80: "The bus address is 32 bits wide"). -/
abbrev Addr := BitVec 32

/-- A page selector, `addr[31:12]` (R80). -/
abbrev PageSel := BitVec 20

/-- An offset within a page, `addr[11:0]` (R80). -/
abbrev Offset := BitVec 12

/-- The access word of a BUS operation (R118). -/
abbrev BusWord := BitVec 14

/-- The address with selector `sel` and in-page offset `off` (R123: `{GX_PAGE, off[11:0]}`). -/
def addrOf (sel : PageSel) (off : Offset) : Addr := sel ++ off

end Sys2Proof
end

