-- ==== Sys2Proof/Config.lean ====
section
/-! DEFINITION. What is fixed for a machine: the constants of R6 and R7, the OPEN parameters of R7, and
the bodyless constants behind the reset draws. -/

namespace Sys2Proof

/-- A matrix class (R12): "one of Projection, Position, Vector, Texture". -/
inductive MatrixClass where
  | projection
  | position
  | vector
  | texture
  deriving DecidableEq, Repr

/-- A matrix (R39): `M[i][j]`, row `i`, column `j`, each the raw 32-bit pattern of a signed fixed-point
number with `FRAC_BITS` fractional bits. -/
abbrev Matrix := Vector (Vector Word 4) 4

/-- The two operand orders R216 allows: `left` is `OperandLeft` (C' = O · C), `right` is
`OperandRight` (C' = C · O). -/
inductive MulOrder where
  | left
  | right
  deriving DecidableEq, Repr, Inhabited

/-- The 14 interrupt sources (R48), in the order of their bits in Request and Enable. -/
inductive IrqSource where
  | vblank
  | hblank
  | vcounterMatch
  | timer0Overflow
  | timer1Overflow
  | timer2Overflow
  | timer3Overflow
  | serial
  | dma0
  | dma1
  | dma2
  | dma3
  | keypad
  | gamePak
  deriving DecidableEq, Repr

/-- The bit position of a source (R48). -/
def IrqSource.bit : IrqSource → Fin 14
  | .vblank => 0
  | .hblank => 1
  | .vcounterMatch => 2
  | .timer0Overflow => 3
  | .timer1Overflow => 4
  | .timer2Overflow => 5
  | .timer3Overflow => 6
  | .serial => 7
  | .dma0 => 8
  | .dma1 => 9
  | .dma2 => 10
  | .dma3 => 11
  | .keypad => 12
  | .gamePak => 13

/-- The two register pages (R80). -/
inductive Page where
  | gx
  | irq
  deriving DecidableEq, Repr

/-- The OPEN parameters of R7 that the core reads. "A model takes every OPEN parameter as an
argument" (R7): they are a field of the machine's state that no step changes, so a statement about
every state is a statement about every value of them (log 3). -/
structure Params where
  /-- `GX_PAGE`. -/
  gxPage : PageSel
  /-- `IRQ_PAGE`. -/
  irqPage : PageSel
  /-- `TEXPARAMS_OFFSET`: an in-page offset or `none` (R25, R81). -/
  texOffset : Option Offset
  /-- `MUL_ORDER` (R216). -/
  mulOrder : MulOrder
  /-- `GX_IRQ_SOURCE`, one of the 14 source bits (R268). -/
  gxIrqSource : Fin 14
  /-- `GX_IRQ_DELAY`, an integer of at least 1 (R266). -/
  gxIrqDelay : Nat
  deriving DecidableEq, Repr

/-- The selector of a page (R80). -/
def Params.selector (p : Params) : Page → PageSel
  | .gx => p.gxPage
  | .irq => p.irqPage

namespace Config

/-! ### R6: parameters fixed by the source -/

/-- `QUEUE_CAP`. -/
def queueCap : Nat := 256
/-- `PIPE_CAP`. -/
def pipeCap : Nat := 4
/-- `MAX_COUNT` = `QUEUE_CAP + PIPE_CAP`. -/
def maxCount : Nat := queueCap + pipeCap
/-- `PROJ_CAP`. -/
def projCap : Nat := 1
/-- `PV_CAP`. -/
def pvCap : Nat := 31
/-- `TEX_CAP`. -/
def texCap : Nat := 1
/-- `N_SOURCES`. -/
def nSources : Nat := 14
/-- `PAGE_SIZE`, in bytes. -/
def pageSize : Nat := 4096
/-- `COUNT_BITS`. -/
def countBits : Nat := 9
/-- `IRQ_MODE_BITS`, the width of `S.irq_mode` (R33). -/
def irqModeBits : Nat := 2
/-- The largest count the 9-bit COUNT field holds (`COUNT_BITS` = 9, R31). -/
def maxCountField : Nat := 511

/-! ### R7: values the spec takes -/

/-- `FRAC_BITS`. -/
def fracBits : Nat := 12
/-- `HALF_THRESHOLD`. -/
def halfThreshold : Nat := 128
/-- `ONE` = `2^FRAC_BITS` (R39). -/
def one : Word := 0x1000

/-- ClearColor's first offset in the GX page (R81). -/
def clearColorOffset : Offset := 0x350
/-- ClearDepth's first offset in the GX page (R81). -/
def clearDepthOffset : Offset := 0x354
/-- GXSTAT's first offset in the GX page (R81). -/
def gxstatOffset : Offset := 0x600
/-- `IRQ_OFFSETS`: MasterEnable (R82). -/
def masterEnableOffset : Offset := 0x208
/-- `IRQ_OFFSETS`: Enable (R82). -/
def enableOffset : Offset := 0x210
/-- `IRQ_OFFSETS`: Request (R82). -/
def requestOffset : Offset := 0x214

/-! ### R7: OPEN parameters of the machine that starts at reset

No body: nothing can be proved of their values (log 3). -/

/-- `GX_PAGE`. -/
opaque gxPage : PageSel
/-- `IRQ_PAGE`. -/
opaque irqPage : PageSel
/-- `MUL_ORDER`. -/
opaque mulOrder : MulOrder
/-- `GX_IRQ_SOURCE`. -/
opaque gxIrqSource : Fin 14
/-- `GX_IRQ_DELAY - 1`: the parameter is an integer of at least 1. -/
opaque gxIrqDelayPred : Nat
/-- `OPAQUE_ARITY(tag)`. The core never reads it (R113); it only gives the length of an Opaque entry
(R122, log 11). -/
opaque opaqueArity : Byte → Nat
/-- `CMD_PORT_MAP`, "how bus writes become command entries": the entries (tag and parameter words) that a
sequence of bus writes, oldest first, becomes. The block itself takes whole entries (R80, D14), so only
the bus layer's side, `cmdPortOps`, applies it (log 11). -/
opaque cmdPortMap : (writes : List (Addr × Byte)) → List (Byte × List Word)

/-- The parameters of the machine that starts at reset: the bodyless constants above, and R7's
default `none` for `TEXPARAMS_OFFSET` (log 3). -/
def params : Params where
  gxPage := gxPage
  irqPage := irqPage
  texOffset := none
  mulOrder := mulOrder
  gxIrqSource := gxIrqSource
  gxIrqDelay := gxIrqDelayPred + 1

/-! ### 93_implementation_defined.md I13: products of huge magnitude -/

/-- The value of a product's element (R210) whose exact sum reaches 2^63 in magnitude, from the row and
the column it is made of: "Treat such results as `any value`" (I13, log 12). -/
opaque wideProduct : (row column : Vector Word 4) → Word

/-! ### R54: the reset draws `INIT_CLEAR` and `INIT_MATRICES`

The first argument is the number of the reset, so each reset draws afresh (R350). DESIGN CHOICE
(log 2): the spec gives no value, and no proof can see one. -/

/-- ClearColor after reset number `draw`. -/
opaque initClearColor : (draw : Nat) → Word
/-- ClearDepth after reset number `draw`. -/
opaque initClearDepth : (draw : Nat) → BitVec 16
/-- TextureParams after reset number `draw`. -/
opaque initTexParams : (draw : Nat) → Word
/-- The current matrix of a class after reset number `draw`. -/
opaque initCurrent : (draw : Nat) → MatrixClass → Matrix
/-- A slot of a class's stack after reset number `draw`. -/
opaque initStack : (draw : Nat) → MatrixClass → (slot : Nat) → Matrix

end Config

end Sys2Proof
end

