-- ==== Sys2Proof/Machine/RegisterMap.lean ====
section
/-! DEFINITION. The register maps of the two pages (R81, R82) as R150 dispatches them, by ranges of
offsets. The decoder's own table (R119, masks and matches) is in Decode.lean; the two are written
apart and proved to agree. -/

namespace Sys2Proof.Machine

/-- The registers of the two pages (R81, R82). -/
inductive Register where
  | clearColor
  | clearDepth
  | texParams
  | gxstat
  | masterEnable
  | enable
  | request
  deriving DecidableEq, Repr

/-- Whether a `TEXPARAMS_OFFSET` is one R81 allows: "a multiple of 4 and must not overlap 0x350-0x355
or 0x600-0x603"; `none` is allowed (R7). -/
def texOffsetLegal : Option Offset → Bool
  | none => true
  | some t =>
    t.toNat % 4 == 0
      && (t.toNat + 3 < 0x350 || 0x355 < t.toNat)
      && (t.toNat + 3 < 0x600 || 0x603 < t.toNat)

/-- Whether parameters are legal: R81's rule for `TEXPARAMS_OFFSET`, and `GX_IRQ_DELAY` is "integer
>= 1" (R7). -/
def paramsLegal (p : Params) : Bool := texOffsetLegal p.texOffset && 1 ≤ p.gxIrqDelay

/-- The byte index of an offset within TextureParams, if it lies there (R150). -/
def texByteIndex (tex : Option Offset) (off : Offset) : Option Nat :=
  match tex with
  | none => none
  | some t =>
    if t.toNat ≤ off.toNat ∧ off.toNat ≤ t.toNat + 3 then some (off.toNat - t.toNat) else none

/-- The byte index of an offset within the register that starts at `base` and has `n` bytes. -/
def byteIndex (base : Offset) (n : Nat) (off : Offset) : Option Nat :=
  if base.toNat ≤ off.toNat ∧ off.toNat < base.toNat + n then some (off.toNat - base.toNat) else none

/-- The register of the GX page at an offset, with the byte index there (R81, R150). -/
def gxRegAt (tex : Option Offset) (off : Offset) : Option (Register × Nat) :=
  match byteIndex Config.clearColorOffset 4 off with
  | some k => some (.clearColor, k)
  | none =>
    match byteIndex Config.clearDepthOffset 2 off with
    | some k => some (.clearDepth, k)
    | none =>
      match texByteIndex tex off with
      | some k => some (.texParams, k)
      | none =>
        match byteIndex Config.gxstatOffset 4 off with
        | some k => some (.gxstat, k)
        | none => none

/-- The register of the IRQ page at an offset, with the byte index there (R82, R150). -/
def irqRegAt (off : Offset) : Option (Register × Nat) :=
  match byteIndex Config.masterEnableOffset 4 off with
  | some k => some (.masterEnable, k)
  | none =>
    match byteIndex Config.enableOffset 4 off with
    | some k => some (.enable, k)
    | none =>
      match byteIndex Config.requestOffset 4 off with
      | some k => some (.request, k)
      | none => none

/-- The register at an offset of a page (R81, R82, R150); `none` is an unmapped offset (R87). -/
def regAt (tex : Option Offset) : Page → Offset → Option (Register × Nat)
  | .gx, off => gxRegAt tex off
  | .irq, off => irqRegAt off

end Sys2Proof.Machine
end

