-- ==== Sys2Proof/Machine/TagMap.lean ====
section
/-! DEFINITION. The command tags (R112) and the port codes (R120): which there are, which are refused, and
the arity of each matrix command. -/

namespace Sys2Proof

/-- The number of parameter words of a matrix command (R112), `none` for any other tag. -/
def matrixArity (tag : Byte) : Option Nat :=
  if tag = 0x10 then some 1
  else if tag = 0x11 then some 0
  else if tag = 0x12 then some 1
  else if tag = 0x13 then some 1
  else if tag = 0x14 then some 1
  else if tag = 0x15 then some 0
  else if tag = 0x16 then some 16
  else if tag = 0x18 then some 16
  else none

/-- The refused tags of R112 and R182: 0x17, 0x19, 0x1A, 0x1B, 0x1C. -/
def isRefusedTag (tag : Byte) : Bool :=
  tag == 0x17 || tag == 0x19 || tag == 0x1A || tag == 0x1B || tag == 0x1C

/-- The Opaque tags (R112): "every other value 0x00-0xFF". -/
def isOpaqueTag (tag : Byte) : Bool := (matrixArity tag).isNone && !isRefusedTag tag

/-- The port codes R120 gives an operation. -/
def isPortCode (code : Byte) : Bool := 1 ≤ code.toNat && code.toNat ≤ 6

end Sys2Proof
end

