-- ==== Sys2Proof/Syntax.lean ====
section
/-! DEFINITION. The operations of the block: one constructor of `Instr` per row of
spec/opcode_table.json, in the table's order; and the raw form in which an operation arrives. -/

namespace Sys2Proof

/-- A GeometryCommandEntry (R37): "an opcode tag plus a variable-length sequence of parameter words". -/
structure Entry where
  tag : Byte
  params : List Word
  deriving DecidableEq, Repr

/-- An operation as it is presented to the block, one constructor per format of R110, before any
decoding. -/
inductive RawOp where
  /-- CMD (R111): one whole entry at the enqueue port. -/
  | cmd (e : Entry)
  /-- BUS (R118): the access word, the full address, and the data byte (meaningful in a write only). -/
  | bus (word : BusWord) (addr : Addr) (data : Byte)
  /-- PORT (R120): a port code and its operand. -/
  | port (code operand : Byte)
  deriving DecidableEq, Repr

/-- The agents of R5, and the host that resets the block (R120). -/
inductive Agent where
  | bus
  | exec
  | sched
  | producer
  | render
  | poll
  | host
  deriving DecidableEq, Repr

/-- The operations of the block (R110), one constructor per row of the opcode table.

A CMD row carries the entry's parameter words as they came; whether their number is right is checked
by Enqueue (R182). A BUS row carries the page selector of its address, the part of the address that
R86 checks, and what of the offset its own row leaves free: the byte index `k`, or the whole offset
where the row's mask does not fix it. -/
inductive Instr where
  /-- CMD 0x10 (R213). -/
  | setMode (params : List Word)
  /-- CMD 0x11 (R218). -/
  | push (params : List Word)
  /-- CMD 0x12 (R219). -/
  | pop (params : List Word)
  /-- CMD 0x13 (R220). -/
  | storeToStack (params : List Word)
  /-- CMD 0x14 (R221). -/
  | restoreFromStack (params : List Word)
  /-- CMD 0x15 (R214). -/
  | loadIdentity (params : List Word)
  /-- CMD 0x16 (R215). -/
  | loadMatrix (params : List Word)
  /-- CMD 0x17: RefusedMatrixVariant (R182). -/
  | refusedTag17 (params : List Word)
  /-- CMD 0x18 (R216). -/
  | multiply (params : List Word)
  /-- CMD 0x19: RefusedMatrixVariant (R182). -/
  | refusedTag19 (params : List Word)
  /-- CMD 0x1A: RefusedMatrixVariant (R182). -/
  | refusedTag1A (params : List Word)
  /-- CMD 0x1B: RefusedMatrixVariant (R182). -/
  | refusedTag1B (params : List Word)
  /-- CMD 0x1C: RefusedMatrixVariant (R182). -/
  | refusedTag1C (params : List Word)
  /-- CMD, every other tag (R186). -/
  | opaqueCmd (tag : Byte) (params : List Word)
  /-- BUS 0x0350-0x0353 (R152). -/
  | rd8ClearColor (sel : PageSel) (k : BitVec 2)
  /-- BUS 0x1350-0x1353 (R153). -/
  | wr8ClearColor (sel : PageSel) (k : BitVec 2) (v : Byte)
  /-- BUS 0x0354-0x0355 (R154). -/
  | rd8ClearDepth (sel : PageSel) (k : BitVec 1)
  /-- BUS 0x1354-0x1355 (R155). -/
  | wr8ClearDepth (sel : PageSel) (k : BitVec 1) (v : Byte)
  /-- BUS `TEXPARAMS_OFFSET`+0..3, read (R156). -/
  | rd8TextureParams (sel : PageSel) (off : Offset)
  /-- BUS `TEXPARAMS_OFFSET`+0..3, write (R157). -/
  | wr8TextureParams (sel : PageSel) (off : Offset) (v : Byte)
  /-- BUS 0x0600-0x0603 (R158). -/
  | rd8Gxstat (sel : PageSel) (k : BitVec 2)
  /-- BUS 0x1600-0x1603 (R159). -/
  | wr8Gxstat (sel : PageSel) (k : BitVec 2) (v : Byte)
  /-- BUS, GX page, read of an unmapped offset (R87). -/
  | rd8GxUnmapped (sel : PageSel) (off : Offset)
  /-- BUS, GX page, write of an unmapped offset (R87). -/
  | wr8GxUnmapped (sel : PageSel) (off : Offset) (v : Byte)
  /-- BUS 0x2208-0x220B (R292). -/
  | rd8MasterEnable (sel : PageSel) (k : BitVec 2)
  /-- BUS 0x3208-0x320B (R293). -/
  | wr8MasterEnable (sel : PageSel) (k : BitVec 2) (v : Byte)
  /-- BUS 0x2210-0x2213 (R290). -/
  | rd8Enable (sel : PageSel) (k : BitVec 2)
  /-- BUS 0x3210-0x3213 (R291). -/
  | wr8Enable (sel : PageSel) (k : BitVec 2) (v : Byte)
  /-- BUS 0x2214-0x2217 (R294). -/
  | rd8Request (sel : PageSel) (k : BitVec 2)
  /-- BUS 0x3214-0x3217 (R295). -/
  | wr8Request (sel : PageSel) (k : BitVec 2) (v : Byte)
  /-- BUS, IRQ page, read of an unmapped offset (R87). -/
  | rd8IrqUnmapped (sel : PageSel) (off : Offset)
  /-- BUS, IRQ page, write of an unmapped offset (R87). -/
  | wr8IrqUnmapped (sel : PageSel) (off : Offset) (v : Byte)
  /-- PORT 0x01 (R183). -/
  | exec
  /-- PORT 0x02 (R267). -/
  | tick
  /-- PORT 0x03 (R297). -/
  | raise (src : Byte)
  /-- PORT 0x04 (R270). -/
  | testset (v : Byte)
  /-- PORT 0x05 (R298). -/
  | poll
  /-- PORT 0x06 (R350). -/
  | reset
  /-- PORT 0x00 and 0x07-0xFF (R121). -/
  | refusedPort (code : Byte)
  deriving DecidableEq, Repr

/-- The agent that takes the step (R5, R120, R180). No agent owns a refused port code. -/
def Instr.agent : Instr → Option Agent
  | .setMode _ | .push _ | .pop _ | .storeToStack _ | .restoreFromStack _ | .loadIdentity _
  | .loadMatrix _ | .refusedTag17 _ | .multiply _ | .refusedTag19 _ | .refusedTag1A _
  | .refusedTag1B _ | .refusedTag1C _ | .opaqueCmd _ _
  | .rd8ClearColor _ _ | .wr8ClearColor _ _ _ | .rd8ClearDepth _ _ | .wr8ClearDepth _ _ _
  | .rd8TextureParams _ _ | .wr8TextureParams _ _ _ | .rd8Gxstat _ _ | .wr8Gxstat _ _ _
  | .rd8GxUnmapped _ _ | .wr8GxUnmapped _ _ _ | .rd8MasterEnable _ _ | .wr8MasterEnable _ _ _
  | .rd8Enable _ _ | .wr8Enable _ _ _ | .rd8Request _ _ | .wr8Request _ _ _
  | .rd8IrqUnmapped _ _ | .wr8IrqUnmapped _ _ _ => some .bus
  | .exec => some .exec
  | .tick => some .sched
  | .raise _ => some .producer
  | .testset _ => some .render
  | .poll => some .poll
  | .reset => some .host
  | .refusedPort _ => none

end Sys2Proof
end

