-- ==== Sys2Proof/WellFormed.lean ====
section
/-! DEFINITION. Which terms of `Instr` are operations the spec gives. Two checks:
`inRow` (the operands lie in the constructor's own row of the opcode table, so the term has an
encoding) and `operandsLegal` (R113, R121: no operand makes the operation a refused one). -/

namespace Sys2Proof

open Machine

/-- The operands lie in the constructor's own row of the opcode table (R112, R119, R120). Only the
rows whose mask leaves a tag, a code or a whole offset open can fail this. -/
def Instr.inRow (tex : Option Offset) : Instr → Bool
  | .setMode _ | .push _ | .pop _ | .storeToStack _ | .restoreFromStack _ | .loadIdentity _
  | .loadMatrix _ | .refusedTag17 _ | .multiply _ | .refusedTag19 _ | .refusedTag1A _
  | .refusedTag1B _ | .refusedTag1C _ => true
  | .opaqueCmd tag _ => isOpaqueTag tag
  | .rd8ClearColor _ _ | .wr8ClearColor _ _ _ | .rd8ClearDepth _ _ | .wr8ClearDepth _ _ _ => true
  | .rd8TextureParams _ off | .wr8TextureParams _ off _ => (texByteIndex tex off).isSome
  | .rd8Gxstat _ _ | .wr8Gxstat _ _ _ => true
  | .rd8GxUnmapped _ off | .wr8GxUnmapped _ off _ => (regAt tex .gx off).isNone
  | .rd8MasterEnable _ _ | .wr8MasterEnable _ _ _ | .rd8Enable _ _ | .wr8Enable _ _ _
  | .rd8Request _ _ | .wr8Request _ _ _ => true
  | .rd8IrqUnmapped _ off | .wr8IrqUnmapped _ off _ => (regAt tex .irq off).isNone
  | .exec | .tick | .raise _ | .testset _ | .poll | .reset => true
  | .refusedPort code => !isPortCode code

/-- No operand makes the operation a refused one (R113, R121): a matrix command has its arity, and
RAISE names a source 0..13. -/
def Instr.operandsLegal : Instr → Bool
  | .setMode ps => ps.length == 1
  | .push ps => ps.length == 0
  | .pop ps => ps.length == 1
  | .storeToStack ps => ps.length == 1
  | .restoreFromStack ps => ps.length == 1
  | .loadIdentity ps => ps.length == 0
  | .loadMatrix ps => ps.length == 16
  | .multiply ps => ps.length == 16
  | .refusedTag17 _ | .refusedTag19 _ | .refusedTag1A _ | .refusedTag1B _ | .refusedTag1C _
  | .opaqueCmd _ _
  | .rd8ClearColor _ _ | .wr8ClearColor _ _ _ | .rd8ClearDepth _ _ | .wr8ClearDepth _ _ _
  | .rd8TextureParams _ _ | .wr8TextureParams _ _ _ | .rd8Gxstat _ _ | .wr8Gxstat _ _ _
  | .rd8GxUnmapped _ _ | .wr8GxUnmapped _ _ _ | .rd8MasterEnable _ _ | .wr8MasterEnable _ _ _
  | .rd8Enable _ _ | .wr8Enable _ _ _ | .rd8Request _ _ | .wr8Request _ _ _
  | .rd8IrqUnmapped _ _ | .wr8IrqUnmapped _ _ _ | .exec | .tick => true
  | .raise src => src.toNat < Config.nSources
  | .testset _ | .poll | .reset | .refusedPort _ => true

/-- A well-formed operation: in its row, with legal operands. -/
def Instr.wellFormed (tex : Option Offset) (i : Instr) : Bool := i.inRow tex && i.operandsLegal

end Sys2Proof
end

