-- ==== Sys2Proof/Decode.lean ====
section
/-! DEFINITION. Decoding (total, refusing by name) and, after it, the encoder. -/

namespace Sys2Proof

/-! ### Decoding -/

/-- Why a raw operation is no operation of the block. -/
inductive DecodeError where
  /-- R118: the word's offset is not `addr[11:0]`. -/
  | busOffsetMismatch
  deriving DecidableEq, Repr

/-- CMD (R112): the tag selects the command; first match, the Opaque row last. -/
def decodeCmd (e : Entry) : Instr :=
  if e.tag = 0x10 then .setMode e.params
  else if e.tag = 0x11 then .push e.params
  else if e.tag = 0x12 then .pop e.params
  else if e.tag = 0x13 then .storeToStack e.params
  else if e.tag = 0x14 then .restoreFromStack e.params
  else if e.tag = 0x15 then .loadIdentity e.params
  else if e.tag = 0x16 then .loadMatrix e.params
  else if e.tag = 0x17 then .refusedTag17 e.params
  else if e.tag = 0x18 then .multiply e.params
  else if e.tag = 0x19 then .refusedTag19 e.params
  else if e.tag = 0x1A then .refusedTag1A e.params
  else if e.tag = 0x1B then .refusedTag1B e.params
  else if e.tag = 0x1C then .refusedTag1C e.params
  else .opaqueCmd e.tag e.params

/-- Bits 11:0 of the access word (R118). -/
def BusWord.offset (word : BusWord) : Offset := word.extractLsb' 0 12

/-- `addr[11:0]` (R118). -/
def Addr.offset (addr : Addr) : Offset := addr.extractLsb' 0 12

/-- `addr[31:12]` (R86). -/
def Addr.selector (addr : Addr) : PageSel := addr.extractLsb' 12 20

/-- Whether the word lies in the TextureParams row (R119): `word & 0x3FFC` is the row's match, "only if
the offset is not `none`". `dir` is 0x0000 for a read and 0x1000 for a write. -/
def texRowMatches (tex : Option Offset) (dir word : BusWord) : Bool :=
  match tex with
  | none => false
  | some t => word &&& 0x3FFC == (dir ||| t.setWidth 14)

/-- BUS (R119): "A decoder matches `word` against the rows in order and takes the first match. The byte
index is `k = offset - base`." Every base of a register with a byte index is a multiple of the
register's size in bytes, so `k` is the low bits of the offset. -/
def decodeBusWord (tex : Option Offset) (word : BusWord) (sel : PageSel) (data : Byte) : Instr :=
  let off := BusWord.offset word
  let k : BitVec 2 := word.extractLsb' 0 2
  let k1 : BitVec 1 := word.extractLsb' 0 1
  if word &&& 0x3FFC = 0x0350 then .rd8ClearColor sel k
  else if word &&& 0x3FFC = 0x1350 then .wr8ClearColor sel k data
  else if word &&& 0x3FFE = 0x0354 then .rd8ClearDepth sel k1
  else if word &&& 0x3FFE = 0x1354 then .wr8ClearDepth sel k1 data
  else if texRowMatches tex 0x0000 word then .rd8TextureParams sel off
  else if texRowMatches tex 0x1000 word then .wr8TextureParams sel off data
  else if word &&& 0x3FFC = 0x0600 then .rd8Gxstat sel k
  else if word &&& 0x3FFC = 0x1600 then .wr8Gxstat sel k data
  else if word &&& 0x3000 = 0x0000 then .rd8GxUnmapped sel off
  else if word &&& 0x3000 = 0x1000 then .wr8GxUnmapped sel off data
  else if word &&& 0x3FFC = 0x2208 then .rd8MasterEnable sel k
  else if word &&& 0x3FFC = 0x3208 then .wr8MasterEnable sel k data
  else if word &&& 0x3FFC = 0x2210 then .rd8Enable sel k
  else if word &&& 0x3FFC = 0x3210 then .wr8Enable sel k data
  else if word &&& 0x3FFC = 0x2214 then .rd8Request sel k
  else if word &&& 0x3FFC = 0x3214 then .wr8Request sel k data
  else if word &&& 0x3000 = 0x2000 then .rd8IrqUnmapped sel off
  else .wr8IrqUnmapped sel off data

/-- PORT (R120, R121). The operand of a code that takes none is not looked at (log 16). -/
def decodePort (code operand : Byte) : Instr :=
  if code = 0x01 then .exec
  else if code = 0x02 then .tick
  else if code = 0x03 then .raise operand
  else if code = 0x04 then .testset operand
  else if code = 0x05 then .poll
  else if code = 0x06 then .reset
  else .refusedPort code

/-- The decoder: total on every raw operation (R110). `tex` is `TEXPARAMS_OFFSET`, the one parameter
that decoding depends on (R119). A BUS operation whose word and address disagree on the offset is
refused by name (log 10). -/
def decode (tex : Option Offset) : RawOp → Except DecodeError Instr
  | .cmd e => .ok (decodeCmd e)
  | .bus word addr data =>
    if BusWord.offset word = Addr.offset addr then
      .ok (decodeBusWord tex word (Addr.selector addr) data)
    else .error .busOffsetMismatch
  | .port code operand => .ok (decodePort code operand)

/-- The number of items of an entry, the tag and its words (R122): "1, 2 or 17 for the matrix
commands, and `1 + OPAQUE_ARITY(tag)` for an Opaque command"; R112 gives the refused tags no arity. -/
def entryItems (tag : Byte) : Option Nat :=
  match matrixArity tag with
  | some n => some (1 + n)
  | none => if isRefusedTag tag then none else some (1 + Config.opaqueArity tag)

/-! ### Encoding -/

/-- The raw BUS operation of a page, direction, selector, offset and data byte (R118):
`page<<13 | dir<<12 | offset`, with the full address. -/
def encodeBus (page dir : BitVec 1) (sel : PageSel) (off : Offset) (data : Byte) : RawOp :=
  .bus ((page ++ dir) ++ off) (addrOf sel off) data

/-- The offset of byte `k` of a register of `2^n` bytes whose base is a multiple of that. -/
def offsetOf {n : Nat} (base : Offset) (k : BitVec n) : Offset := base ||| k.setWidth 12

/-- The encoder, from the same tables (R112, R118-R120). Bits the spec gives no meaning are 0. -/
def encode : Instr → RawOp
  | .setMode ps => .cmd ⟨0x10, ps⟩
  | .push ps => .cmd ⟨0x11, ps⟩
  | .pop ps => .cmd ⟨0x12, ps⟩
  | .storeToStack ps => .cmd ⟨0x13, ps⟩
  | .restoreFromStack ps => .cmd ⟨0x14, ps⟩
  | .loadIdentity ps => .cmd ⟨0x15, ps⟩
  | .loadMatrix ps => .cmd ⟨0x16, ps⟩
  | .refusedTag17 ps => .cmd ⟨0x17, ps⟩
  | .multiply ps => .cmd ⟨0x18, ps⟩
  | .refusedTag19 ps => .cmd ⟨0x19, ps⟩
  | .refusedTag1A ps => .cmd ⟨0x1A, ps⟩
  | .refusedTag1B ps => .cmd ⟨0x1B, ps⟩
  | .refusedTag1C ps => .cmd ⟨0x1C, ps⟩
  | .opaqueCmd tag ps => .cmd ⟨tag, ps⟩
  | .rd8ClearColor sel k => encodeBus 0 0 sel (offsetOf 0x350 k) 0
  | .wr8ClearColor sel k v => encodeBus 0 1 sel (offsetOf 0x350 k) v
  | .rd8ClearDepth sel k => encodeBus 0 0 sel (offsetOf 0x354 k) 0
  | .wr8ClearDepth sel k v => encodeBus 0 1 sel (offsetOf 0x354 k) v
  | .rd8TextureParams sel off => encodeBus 0 0 sel off 0
  | .wr8TextureParams sel off v => encodeBus 0 1 sel off v
  | .rd8Gxstat sel k => encodeBus 0 0 sel (offsetOf 0x600 k) 0
  | .wr8Gxstat sel k v => encodeBus 0 1 sel (offsetOf 0x600 k) v
  | .rd8GxUnmapped sel off => encodeBus 0 0 sel off 0
  | .wr8GxUnmapped sel off v => encodeBus 0 1 sel off v
  | .rd8MasterEnable sel k => encodeBus 1 0 sel (offsetOf 0x208 k) 0
  | .wr8MasterEnable sel k v => encodeBus 1 1 sel (offsetOf 0x208 k) v
  | .rd8Enable sel k => encodeBus 1 0 sel (offsetOf 0x210 k) 0
  | .wr8Enable sel k v => encodeBus 1 1 sel (offsetOf 0x210 k) v
  | .rd8Request sel k => encodeBus 1 0 sel (offsetOf 0x214 k) 0
  | .wr8Request sel k v => encodeBus 1 1 sel (offsetOf 0x214 k) v
  | .rd8IrqUnmapped sel off => encodeBus 1 0 sel off 0
  | .wr8IrqUnmapped sel off v => encodeBus 1 1 sel off v
  | .exec => .port 0x01 0
  | .tick => .port 0x02 0
  | .raise src => .port 0x03 src
  | .testset v => .port 0x04 v
  | .poll => .port 0x05 0
  | .reset => .port 0x06 0
  | .refusedPort code => .port code 0

/-! ### The opcode table's numbering -/

/-- Word `j` of an entry whose bits are `w`: the tag is bits 7:0, the words follow (R111). -/
def tableParam (w j : Nat) : Word := BitVec.ofNat 32 (w >>> (8 + 32 * j))

/-- The raw operation of an opcode-table word. The table numbers a BUS row by its access word (two
bytes) and a CMD or PORT row by its tag or code; it gives no format, so an eight-bit word 1..6 is read
as a port code and every other as a tag (log 17). Bits above `nbits` are 0: a BUS operation has page
selector and data 0, a port operand is 0, and an entry has the words its tag's arity asks for. -/
def rawOfTable (nbits w : Nat) : RawOp :=
  if nbits = 16 then
    .bus (BitVec.ofNat 14 w) (addrOf 0 (BitVec.ofNat 12 w)) 0
  else if nbits ≤ 8 ∧ isPortCode (BitVec.ofNat 8 w) then
    .port (BitVec.ofNat 8 w) 0
  else
    .cmd ⟨BitVec.ofNat 8 w,
      (List.range ((matrixArity (BitVec.ofNat 8 w)).getD 0)).map (tableParam w)⟩

/-- The instruction the decoder reads from an opcode-table word (`TEXPARAMS_OFFSET` at R7's default
`none`, as in the state after reset). -/
def decodeTableWord (nbits w : Nat) : Option Instr :=
  match decode Config.params.texOffset (rawOfTable nbits w) with
  | .ok i => some i
  | .error _ => none

end Sys2Proof
end

