-- ==== Sys2Proof/Machine/State.lean ====
section
/-! DEFINITION. The state of the machine: `Blk` is the spec's record `S` (R20), field for field; `State`
puts beside it the parameters and the model's own fields. Plain data throughout. -/

namespace Sys2Proof.Machine

/-- The active matrix mode, `S.mode` (R41): the codes are 0 = Projection, 1 = Position,
2 = Position-and-Vector, 3 = Texture. -/
inductive Mode where
  | projection
  | position
  | positionVector
  | texture
  deriving DecidableEq, Repr

/-- The spec's two model faults (R322), as `S.fault` records them. They are not outcomes of a step: the
step that raises one goes to a next state in which it is recorded (log 5). -/
inductive ModelFault where
  /-- R86: an access whose `addr[31:12]` is not its route's page selector. -/
  | wiring (addr : Addr)
  /-- R219: a Pop with `n = 0` at `sp = cap`. -/
  | stackIndex (mode : Mode) (sp : Nat)
  deriving DecidableEq, Repr

/-- The spec's refusals (R323), as the refused operation returns them. The step that refuses goes to a
next state in which `S.refused` is set (log 5). -/
inductive RefuseKind where
  /-- `RefusedTag(t)` (R182). -/
  | tag (t : Byte)
  /-- `RefusedArity(t, n)` (R182). -/
  | arity (t : Byte) (n : Nat)
  /-- `RefusedSource(s)` (R297). -/
  | source (s : Byte)
  /-- `RefusedPort(c)` (R121). -/
  | port (c : Byte)
  /-- `RefusedConfig` (R81). -/
  | config
  deriving DecidableEq, Repr

/-- The kinds of diagnostic (R52). -/
inductive DiagKind where
  | unmappedRead
  | unmappedWrite
  deriving DecidableEq, Repr

/-- A diagnostic event `(kind, addr)` (R52). -/
structure DiagEvent where
  kind : DiagKind
  addr : Addr
  deriving DecidableEq, Repr

/-- The value an operation returns (R10: "`ok(S')` is the next state, possibly with a returned
value"), or the fault or refusal it ended in. A field of the model, not of `S` (log 4). -/
inductive Result where
  /-- Nothing is returned. -/
  | done
  /-- The byte of a BusRead (R150). -/
  | byte (v : Byte)
  /-- `Accepted` (R180). -/
  | accepted
  /-- `Full` (R181). -/
  | full
  /-- The boolean of POLL (R298). -/
  | flag (b : Bool)
  /-- The operation raised a model fault (R10, R322). -/
  | raised (f : ModelFault)
  /-- The operation was refused (R10, R323). -/
  | refused (r : RefuseKind)
  deriving DecidableEq, Repr

/-- The block's state record `S` (R20): "a record with these fields and nothing else". -/
structure Blk where
  /-- `clear_color` (R23). -/
  clearColor : Word
  /-- `clear_depth` (R24). -/
  clearDepth : BitVec 16
  /-- `tex_params` (R25). -/
  texParams : Word
  /-- GXSTAT TEST (R28). -/
  test : BitVec 2
  /-- GXSTAT UNDERFLOW (R29). -/
  underflow : Bool
  /-- GXSTAT OVERFLOW (R30). -/
  overflow : Bool
  /-- GXSTAT IRQ_MODE (R33). -/
  irqMode : BitVec 2
  /-- The primary buffer, oldest entry first (R35). -/
  queue : List Entry
  /-- The execution buffer, next entry to execute first (R36). -/
  pipe : List Entry
  /-- The active matrix mode (R41). -/
  mode : Mode
  /-- The current Projection matrix (R40). -/
  P : Matrix
  /-- The current Position matrix (R40). -/
  Pos : Matrix
  /-- The current Vector matrix (R40). -/
  Vec : Matrix
  /-- The current Texture matrix (R40). -/
  T : Matrix
  /-- `projStack[0..0]` (R42). -/
  projStack : Vector Matrix 1
  /-- `posStack[0..30]` (R42). -/
  posStack : Vector Matrix 31
  /-- `vecStack[0..30]` (R42). -/
  vecStack : Vector Matrix 31
  /-- `texStack[0..0]` (R42). -/
  texStack : Vector Matrix 1
  /-- `sp_proj` (R43). -/
  spProj : Nat
  /-- `sp_pv`, shared by posStack and vecStack (R43). -/
  spPv : Nat
  /-- `sp_tex` (R43). -/
  spTex : Nat
  /-- The Enable register (R45). -/
  IE : BitVec 14
  /-- The MasterEnable register (R46). -/
  IME : BitVec 1
  /-- The Request register (R47). -/
  IF : BitVec 14
  /-- `prev_cond`: the trigger condition at the last recomputation (R49). -/
  prevCond : Bool
  /-- `pending`: the ticks left of each scheduled delivery (R50). -/
  pending : List Nat
  /-- `fault`: the first fault raised (R51). -/
  fault : Option ModelFault
  /-- `refused`: whether an operation has been refused (R51). -/
  refused : Bool
  /-- `diag`: the output-only log of diagnostics (R52). -/
  diag : List DiagEvent
  deriving DecidableEq, Repr

/-- The state of the machine. -/
structure State where
  /-- The spec's state record `S` (R20). -/
  blk : Blk
  /-- The OPEN parameters (R7); no step changes them (log 3). -/
  cfg : Params
  /-- The operations the stepping loop will perform, oldest first (R89, log 1). -/
  inputs : List RawOp
  /-- What the latest operation returned (R10, log 4). -/
  result : Result
  /-- The RenderInput events emitted so far, oldest first, output only (R186, log 4). -/
  rendered : List Entry
  /-- The number of the next reset draw (R350 "fresh draws", log 2). -/
  draw : Nat
  /-- Whether an entry has been lost: presented while 260 were held, and answered `Full`. A mark on the
  run, kept as R10 keeps a refusal: the hardware has no run past it (R354, log 14). -/
  overrun : Bool
  deriving DecidableEq, Repr

/-- Why a step has no next state. None of these is a fault of the spec (R322, R323 are recorded in
`S`): each says that the machine is stuck, and each is safe, since it removes runs and adds none. -/
inductive Fault where
  /-- Raised by `step` when the stepping loop presents no operation (R89, log 1). Safe. -/
  | noOperation
  /-- Raised by EXEC when it is not enabled (R184): "With an empty pipe it has no step", nor with
  `S.fault` set (log 8). Safe. -/
  | execNotEnabled
  /-- Raised by EXEC when `S.pipe[0]` is an entry that Check refuses, so that R185 gives it no
  command: no run from reset holds one (R182, log 9). Safe. -/
  | unacceptedEntry
  deriving DecidableEq, Repr

/-- Why an operation has no meaning. -/
inductive Refusal where
  /-- Raised by `exec` for an instruction that the model gives no meaning yet. Safe. -/
  | notModelled (mnemonic : String)
  /-- Raised by `step` when the decoder refuses the raw operation (R118, log 10). Safe. -/
  | undecodable (e : DecodeError)
  deriving DecidableEq, Repr

/-- The answer of a step. -/
abbrev Outcome := Host.Outcome State Fault Refusal

/-- The block's record after reset number `draw` (R54): every field at the table's value, the
unspecified ones drawn (log 2). -/
def Blk.initial (draw : Nat) : Blk where
  clearColor := Config.initClearColor draw
  clearDepth := Config.initClearDepth draw
  texParams := Config.initTexParams draw
  test := 0
  underflow := false
  overflow := false
  irqMode := 0
  queue := []
  pipe := []
  mode := .projection
  P := Config.initCurrent draw .projection
  Pos := Config.initCurrent draw .position
  Vec := Config.initCurrent draw .vector
  T := Config.initCurrent draw .texture
  projStack := Vector.ofFn fun i => Config.initStack draw .projection i.val
  posStack := Vector.ofFn fun i => Config.initStack draw .position i.val
  vecStack := Vector.ofFn fun i => Config.initStack draw .vector i.val
  texStack := Vector.ofFn fun i => Config.initStack draw .texture i.val
  spProj := 0
  spPv := 0
  spTex := 0
  IE := 0
  IME := 0
  IF := 0
  prevCond := false
  pending := []
  fault := none
  refused := false
  diag := []

/-- The machine right after reset (R351): "A run of the model starts in the state RESET produces, with
`fault` none, `refused` false and `diag` empty". -/
def State.reset : State where
  blk := Blk.initial 0
  cfg := Config.params
  inputs := []
  result := .done
  rendered := []
  draw := 1
  overrun := false

end Sys2Proof.Machine
end

