-- ==== Sys2Proof/Machine/Operands.lean ====
section
/-! DEFINITION. Operand forms: how an entry's parameter words become the operands of its command
(R113-R117), and which command an entry is (R112, R185). -/

namespace Sys2Proof.Machine

/-- The mode a two-bit code names (R41). -/
def Mode.ofBits (c : BitVec 2) : Mode :=
  if c = 0 then .projection else if c = 1 then .position else if c = 2 then .positionVector else .texture

/-- The code of a mode (R41). -/
def Mode.toBits : Mode → BitVec 2
  | .projection => 0
  | .position => 1
  | .positionVector => 2
  | .texture => 3

/-- R114: `mode = p[0][1:0]`; bits 31:2 are ignored. -/
def modeOperand (p0 : Word) : Mode := Mode.ofBits (p0.extractLsb' 0 2)

/-- R115: `n = zext(p[0][5:0])`, a count 0..63; bits 31:6 are ignored. -/
def popOperand (p0 : Word) : Nat := (p0.extractLsb' 0 6).toNat

/-- R116: `slot = zext(p[0][4:0])`, an index 0..31; bits 31:5 are ignored. -/
def slotOperand (p0 : Word) : Nat := (p0.extractLsb' 0 5).toNat

/-- R117: `O[i][j] = sext_32(p[4*i + j])`, row-major. An element is its raw 32-bit pattern; it is read
as signed where it is multiplied (R210). Used on exactly 16 words (R113). -/
def matrixOperand (ps : List Word) : Matrix :=
  Vector.ofFn fun i => Vector.ofFn fun j => ps.getD (4 * i.val + j.val) 0

/-- A command with its operands (R185). -/
inductive Command where
  | setMode (m : Mode)
  | push
  | pop (n : Nat)
  | storeToStack (slot : Nat)
  | restoreFromStack (slot : Nat)
  | loadIdentity
  | loadMatrix (O : Matrix)
  | multiply (O : Matrix)
  | forwardOpaque (e : Entry)
  deriving DecidableEq, Repr

end Sys2Proof.Machine

namespace Sys2Proof

open Machine

/-- Check(e) (R182): `none` when the entry is accepted, else the refusal. -/
def Entry.check (e : Entry) : Option RefuseKind :=
  if isRefusedTag e.tag then some (.tag e.tag)
  else
    match matrixArity e.tag with
    | some n => if e.params.length = n then none else some (.arity e.tag e.params.length)
    | none => none

/-- The command of a matrix entry, by its tag and its parameter words (R185); `none` for a wrong
number of words or any other tag. -/
def Entry.matrixCommand (e : Entry) : Option Command :=
  match e.params with
  | [] => if e.tag = 0x11 then some .push else if e.tag = 0x15 then some .loadIdentity else none
  | [p] =>
    if e.tag = 0x10 then some (.setMode (modeOperand p))
    else if e.tag = 0x12 then some (.pop (popOperand p))
    else if e.tag = 0x13 then some (.storeToStack (slotOperand p))
    else if e.tag = 0x14 then some (.restoreFromStack (slotOperand p))
    else none
  | ps =>
    if ps.length = 16 ∧ e.tag = 0x16 then some (.loadMatrix (matrixOperand ps))
    else if ps.length = 16 ∧ e.tag = 0x18 then some (.multiply (matrixOperand ps))
    else none

/-- Dispatch's choice (R185): the command an entry stands for. `none` exactly for the entries that
Check refuses, which "never reach the pipe". -/
def Entry.command (e : Entry) : Option Command :=
  if isRefusedTag e.tag then none
  else if isOpaqueTag e.tag then some (.forwardOpaque e)
  else e.matrixCommand

end Sys2Proof

namespace Sys2Proof.Machine

/-- The event a command emits to the rendering engine (R186): the entry itself, unchanged, for an
Opaque one; nothing for a matrix command. -/
def Command.emitted : Command → List Entry
  | .forwardOpaque e => [e]
  | .setMode _ | .push | .pop _ | .storeToStack _ | .restoreFromStack _ | .loadIdentity
  | .loadMatrix _ | .multiply _ => []

end Sys2Proof.Machine
end

