-- ==== Sys2Proof/Machine/Flags.lean ====
section
/-! DEFINITION. The status the block derives: GXSTAT's value, its sticky flags, the trigger condition, and
the interrupt output. -/

namespace Sys2Proof.Machine

/-- A flag as a 32-bit number, to be shifted into place (R262). -/
def flagWord (b : Bool) : Word := if b then 1 else 0

/-- `count(S) = len(S.queue) + len(S.pipe)` (R260). -/
def Blk.count (b : Blk) : Nat := b.queue.length + b.pipe.length

/-- BUSY: `count(S) > 0` (R32, R260). -/
def Blk.busy (b : Blk) : Bool := 0 < b.count

/-- The COUNT field: `min(count, 511)` (R31). -/
def Blk.countField (b : Blk) : Nat := min b.count Config.maxCountField

/-- `GXSTAT_value(S)` (R262). -/
def Blk.gxstatValue (b : Blk) : Word :=
  b.test.setWidth 32
    ||| (flagWord b.underflow <<< 14)
    ||| (flagWord b.overflow <<< 15)
    ||| (BitVec.ofNat 32 b.countField <<< 16)
    ||| (flagWord b.busy <<< 27)
    ||| (b.irqMode.setWidth 32 <<< 30)

/-- `half(S)`: `len(S.queue) <= HALF_THRESHOLD` (R261). -/
def Blk.half (b : Blk) : Bool := b.queue.length ≤ Config.halfThreshold

/-- `empty(S)`: `count(S) = 0` (R261). -/
def Blk.empty (b : Blk) : Bool := b.count == 0

/-- `cond(S)`, the IRQ trigger condition (R263). -/
def Blk.cond (b : Blk) : Bool :=
  if b.irqMode = 1 then b.half else if b.irqMode = 2 then b.empty else false

/-- The matrix engine sets OVERFLOW (R30, R217). -/
def Blk.setOverflow (b : Blk) : Blk := { b with overflow := true }

/-- The matrix engine sets UNDERFLOW (R29, R217). -/
def Blk.setUnderflow (b : Blk) : Blk := { b with underflow := true }

/-- The write-1-to-clear bits of GXSTAT byte 1 (R159): bit 6 clears UNDERFLOW, bit 7 clears OVERFLOW,
and a 0 leaves its flag unchanged. -/
def Blk.clearFlags (v : Byte) (b : Blk) : Blk :=
  { b with
    underflow := b.underflow && !v.getLsbD 6
    overflow := b.overflow && !v.getLsbD 7 }

/-- `interrupts_requested(S) = (S.IME != 0) and ((S.IF & S.IE) != 0)` (R298): the block's level
output (R327). -/
def Blk.interruptsRequested (b : Blk) : Bool := b.IME != 0 && (b.IF &&& b.IE) != 0

end Sys2Proof.Machine
end

