-- ==== Sys2Proof/Machine/Ops.lean ====
section
/-! DEFINITION. The shared operations: bytes of registers, the outcomes `raise` and `refuse`, the bridge's
recomputation and delivery, the current matrices and stacks by class, and the queue. -/

namespace Sys2Proof.Machine

/-! ### Bytes of a register (R83) -/

/-- Bits `8k+7:8k` (R83). -/
def getByte {w : Nat} (x : BitVec w) (k : Nat) : Byte := x.extractLsb' (8 * k) 8

/-- `(x & ~(0xFF << 8k)) | (zext(v) << 8k)` (R153): byte `k` replaced. -/
def setByte {w : Nat} (x : BitVec w) (k : Nat) (v : Byte) : BitVec w :=
  (x &&& ~~~(BitVec.ofNat w 0xFF <<< (8 * k))) ||| (v.setWidth w <<< (8 * k))

/-! ### The outcomes of R10

The block takes no trap (R327); what stands in the place of exception entry is `raiseFault`. -/

/-- A next state that differs in `S` and returns `r` (R10, `ok(S')`). -/
def State.ok (s : State) (b : Blk) (r : Result) : State := { s with blk := b, result := r }

/-- `S.fault` "records the first fault raised" and "once set, no step clears it" (R51). -/
def Blk.recordFault (f : ModelFault) (b : Blk) : Blk :=
  { b with fault := match b.fault with | some f0 => some f0 | none => some f }

/-- `raise F(info)` (R10, R322): the fault is recorded; nothing else of `S` changes by it (log 5). -/
def State.raiseFault (f : ModelFault) (s : State) : State := s.ok (s.blk.recordFault f) (.raised f)

/-- `refuse R(info)` (R10, R323): "It sets `S.refused` and changes nothing else" (log 5). -/
def State.refuse (r : RefuseKind) (s : State) : State :=
  s.ok { s.blk with refused := true } (.refused r)

/-- `emit Diag(kind, addr)` (R10, R52). -/
def Blk.emitDiag (kind : DiagKind) (addr : Addr) (b : Blk) : Blk :=
  { b with diag := b.diag ++ [⟨kind, addr⟩] }

/-! ### The GXSTAT bridge -/

/-- Schedule (R266): `S.pending <- S.pending ++ [GX_IRQ_DELAY]`. -/
def Blk.schedule (delay : Nat) (b : Blk) : Blk := { b with pending := b.pending ++ [delay] }

/-- Recompute (R264): schedule when the condition became newly true, then record it. -/
def Blk.recompute (delay : Nat) (b : Blk) : Blk :=
  { (if b.cond && !b.prevCond then b.schedule delay else b) with prevCond := b.cond }

/-- Deliver (R268): `S.IF <- S.IF | (1 << GX_IRQ_SOURCE)`. -/
def Blk.deliver (source : Fin 14) (b : Blk) : Blk :=
  { b with IF := b.IF ||| ((1 : BitVec 14) <<< source.val) }

/-! ### Current matrices and stacks, by class and by mode (R40, R42, R43, R212) -/

/-- The current matrix of a class (R40). -/
def Blk.current (b : Blk) : MatrixClass → Matrix
  | .projection => b.P
  | .position => b.Pos
  | .vector => b.Vec
  | .texture => b.T

/-- Write the current matrix of a class. -/
def Blk.setCurrent (b : Blk) (c : MatrixClass) (m : Matrix) : Blk :=
  match c with
  | .projection => { b with P := m }
  | .position => { b with Pos := m }
  | .vector => { b with Vec := m }
  | .texture => { b with T := m }

/-- Slot `i` of a class's stack (R42); `none` past its capacity, where no slot exists. -/
def Blk.slot (b : Blk) (c : MatrixClass) (i : Nat) : Option Matrix :=
  match c with
  | .projection => b.projStack[i]?
  | .position => b.posStack[i]?
  | .vector => b.vecStack[i]?
  | .texture => b.texStack[i]?

/-- Write slot `i` of a class's stack (R42); past its capacity there is nothing to write. -/
def Blk.setSlot (b : Blk) (c : MatrixClass) (i : Nat) (m : Matrix) : Blk :=
  match c with
  | .projection => { b with projStack := b.projStack.setIfInBounds i m }
  | .position => { b with posStack := b.posStack.setIfInBounds i m }
  | .vector => { b with vecStack := b.vecStack.setIfInBounds i m }
  | .texture => { b with texStack := b.texStack.setIfInBounds i m }

/-- R212, column "load/multiply targets". -/
def Mode.targets : Mode → List MatrixClass
  | .projection => [.projection]
  | .position => [.position]
  | .positionVector => [.position, .vector]
  | .texture => [.texture]

/-- R212, column "matrices saved and restored". -/
def Mode.saved : Mode → List MatrixClass
  | .projection => [.projection]
  | .position => [.position, .vector]
  | .positionVector => [.position, .vector]
  | .texture => [.texture]

/-- R212, column "capacity". -/
def Mode.cap : Mode → Nat
  | .projection => Config.projCap
  | .position => Config.pvCap
  | .positionVector => Config.pvCap
  | .texture => Config.texCap

/-- R212, column "pointer": the stack pointer the mode selects. -/
def Blk.sp (b : Blk) : Nat :=
  match b.mode with
  | .projection => b.spProj
  | .position => b.spPv
  | .positionVector => b.spPv
  | .texture => b.spTex

/-- Write the stack pointer the mode selects (R212). -/
def Blk.setSp (b : Blk) (n : Nat) : Blk :=
  match b.mode with
  | .projection => { b with spProj := n }
  | .position => { b with spPv := n }
  | .positionVector => { b with spPv := n }
  | .texture => { b with spTex := n }

/-- `for X in targets: S.X <- f(S.X)` (R214-R216). -/
def Blk.mapTargets (f : Matrix → Matrix) (b : Blk) : Blk :=
  b.mode.targets.foldl (fun b c => b.setCurrent c (f (b.current c))) b

/-- `for X in saved: stk_X[i] <- S.X` (R218, R220). -/
def Blk.saveAt (i : Nat) (b : Blk) : Blk :=
  b.mode.saved.foldl (fun b c => b.setSlot c i (b.current c)) b

/-- `for X in saved: S.X <- stk_X[i]` (R219, R221), for a slot that exists. -/
def Blk.restoreFrom (i : Nat) (b : Blk) : Blk :=
  b.mode.saved.foldl
    (fun b c => match b.slot c i with | some m => b.setCurrent c m | none => b) b

/-! ### The command queue -/

/-- The unexecuted entries, oldest first: `S.pipe ++ S.queue` (R187). -/
def Blk.held (b : Blk) : List Entry := b.pipe ++ b.queue

/-- Remove the pipe's oldest entry and refill the pipe with at most one entry of the queue (R183). -/
def Blk.takeHead (b : Blk) : Blk :=
  match b.queue with
  | [] => { b with pipe := b.pipe.tail }
  | e :: rest => { b with pipe := b.pipe.tail ++ [e], queue := rest }

/-- The answer at 260 held entries (R181): `Full`, "changes no field of `S`". The entry is lost, which the
mark `overrun` records (R354, log 14). -/
def State.answerFull (s : State) : State := { s.ok s.blk .full with overrun := true }

/-- Whether neither buffer has room for an entry, the case of R181. -/
def Blk.noRoom (b : Blk) : Bool :=
  Config.pipeCap ≤ b.pipe.length && Config.queueCap ≤ b.queue.length

/-- Enqueue(e) (R180, R181): Check, then the pipe if it has room, else the queue if it has room, else
`Full` with no change. -/
def State.enqueue (e : Entry) (s : State) : State :=
  match e.check with
  | some r => s.refuse r
  | none =>
    if s.blk.pipe.length < Config.pipeCap then
      s.ok (Blk.recompute s.cfg.gxIrqDelay { s.blk with pipe := s.blk.pipe ++ [e] }) .accepted
    else if s.blk.queue.length < Config.queueCap then
      s.ok (Blk.recompute s.cfg.gxIrqDelay { s.blk with queue := s.blk.queue ++ [e] }) .accepted
    else s.answerFull

/-! ### Configuration -/

/-- Give the block its `TEXPARAMS_OFFSET` (R7). "A model refuses any other value as a configuration
error" (R81, R323 `RefusedConfig`, log 7). Not an operation of the opcode table: the outside world
does it before a run. -/
def State.configure (tex : Option Offset) (s : State) : State :=
  if texOffsetLegal tex then { s with cfg := { s.cfg with texOffset := tex } } else s.refuse .config

end Sys2Proof.Machine
end

