-- ==== Sys2Proof/Machine/Bridge.lean ====
section
/-! DEFINITION. The meanings of the remaining PORT rows: TICK (R267), TESTSET (R270), RESET (R350) and the
refused codes (R121). -/

namespace Sys2Proof.Machine

/-- The tick's effect on `S` (R267): deliveries with at most one tick left are due and are made "once
however many are due"; the others lose a tick. -/
def Blk.tick (source : Fin 14) (b : Blk) : Blk :=
  let b' := { b with pending := (b.pending.filter (1 < ·)).map (· - 1) }
  if b.pending.any (· ≤ 1) then b'.deliver source else b'

/-- TICK (R267): always enabled. -/
def execTick (s : State) : Outcome := .next (s.ok (s.blk.tick s.cfg.gxIrqSource) .done)

/-- TESTSET(v) (R270): `S.test <- v[1:0]`; `v[7:2]` is ignored; no Recompute. -/
def execTestset (v : Byte) (s : State) : Outcome :=
  .next (s.ok { s.blk with test := v.extractLsb' 0 2 } .done)

/-- The record after a RESET (R350): R54's table with fresh draws, but "`S.fault`, `S.refused` and
`S.diag` are model bookkeeping and are kept". -/
def Blk.afterReset (draw : Nat) (b : Blk) : Blk :=
  { Blk.initial draw with fault := b.fault, refused := b.refused, diag := b.diag }

/-- RESET (R350). -/
def execReset (s : State) : Outcome :=
  .next { s.ok (s.blk.afterReset s.draw) .done with draw := s.draw + 1 }

/-- Port codes 0x00 and 0x07-0xFF (R121): `RefusedPort(c)`, so `S.refused` is set and nothing else
changes (R323). -/
def execRefusedPort (code : Byte) (s : State) : Outcome := .next (s.refuse (.port code))

end Sys2Proof.Machine
end

