-- ==== Sys2Proof/Machine/MatrixEngine.lean ====
section
/-! DEFINITION. The matrix stack engine: the fixed-point product (R210), the identity (R211) and the eight
commands (R213-R221), each as the change of `S` it makes inside an execution step. -/

namespace Sys2Proof.Machine

/-! ### Arithmetic -/

/-- `wrap32(x >>a FRAC_BITS)` (R8, R210): arithmetic shift, so floor, then the low 32 bits. -/
def narrow (x : Int) : Word := BitVec.ofInt 32 (x >>> Config.fracBits)

/-- The exact sum of R210: "Each product and the sum are exact mathematical integers with no
intermediate wrap". -/
def dot (A B : Matrix) (i j : Fin 4) : Int :=
  A[i][0].toInt * B[0][j].toInt + A[i][1].toInt * B[1][j].toInt
    + A[i][2].toInt * B[2][j].toInt + A[i][3].toInt * B[3][j].toInt

/-- Whether an exact sum stays below 2^63 in magnitude (93_implementation_defined.md I13). -/
def inAccumulator (n : Int) : Bool := -2 ^ 63 < n && n < 2 ^ 63

/-- One element of a product (R210); a free value where the exact sum reaches 2^63 in magnitude (I13,
log 12). -/
def productElement (A B : Matrix) (i j : Fin 4) : Word :=
  if inAccumulator (dot A B i j) then narrow (dot A B i j)
  else Config.wideProduct A[i] (Vector.ofFn fun k => B[k][j])

/-- `MatMul(A, B)` (R210). -/
def matMul (A B : Matrix) : Matrix :=
  Vector.ofFn fun i => Vector.ofFn fun j => productElement A B i j

/-- The matrix with `a` on the diagonal and 0 elsewhere. -/
def diag (a : Word) : Matrix :=
  Vector.ofFn fun i => Vector.ofFn fun j => if i = j then a else 0

/-- The identity `I`: `ONE` on the diagonal (R211). -/
def identity : Matrix := diag Config.one

/-- The new value of a target under Multiply (R216). -/
def product (order : MulOrder) (O C : Matrix) : Matrix :=
  match order with
  | .left => matMul O C
  | .right => matMul C O

/-! ### Commands -/

/-- How a command ends (R10): with a new `S`, or raising a fault with `S` as it then is (R183). -/
inductive Applied where
  | ok (b : Blk)
  | raised (f : ModelFault) (b : Blk)
  deriving DecidableEq, Repr

/-- `S` as the command leaves it. -/
def Applied.blk : Applied → Blk
  | .ok b => b
  | .raised _ b => b

/-- SetMode (R213). -/
def applySetMode (m : Mode) (b : Blk) : Blk := { b with mode := m }

/-- LoadIdentity (R214). -/
def applyLoadIdentity (b : Blk) : Blk := b.mapTargets fun _ => identity

/-- LoadMatrix (R215). -/
def applyLoadMatrix (O : Matrix) (b : Blk) : Blk := b.mapTargets fun _ => O

/-- Multiply (R216). -/
def applyMultiply (order : MulOrder) (O : Matrix) (b : Blk) : Blk := b.mapTargets (product order O)

/-- Push (R218). -/
def applyPush (b : Blk) : Blk :=
  if b.sp = b.mode.cap then b.setOverflow else (b.saveAt b.sp).setSp (b.sp + 1)

/-- Pop (R219). `sp - n < 0` is `sp < n`. -/
def applyPop (n : Nat) (b : Blk) : Applied :=
  if b.sp < n then .ok (b.setUnderflow.setSp 0)
  else
    let b' := b.setSp (b.sp - n)
    if b.mode.cap ≤ b.sp - n then .raised (.stackIndex b.mode (b.sp - n)) b'
    else .ok (b'.restoreFrom (b.sp - n))

/-- StoreToStack (R220). -/
def applyStoreToStack (slot : Nat) (b : Blk) : Blk :=
  if b.mode.cap ≤ slot then b.setOverflow else b.saveAt slot

/-- RestoreFromStack (R221). -/
def applyRestoreFromStack (slot : Nat) (b : Blk) : Blk :=
  if b.mode.cap ≤ slot then b.setOverflow else b.restoreFrom slot

/-- Dispatch(e) (R185): the command applied to `S`. ForwardOpaque "changes no field of `S`" (R186). -/
def applyCommand (order : MulOrder) (c : Command) (b : Blk) : Applied :=
  match c with
  | .setMode m => .ok (applySetMode m b)
  | .push => .ok (applyPush b)
  | .pop n => applyPop n b
  | .storeToStack slot => .ok (applyStoreToStack slot b)
  | .restoreFromStack slot => .ok (applyRestoreFromStack slot b)
  | .loadIdentity => .ok (applyLoadIdentity b)
  | .loadMatrix O => .ok (applyLoadMatrix O b)
  | .multiply O => .ok (applyMultiply order O b)
  | .forwardOpaque _ => .ok b

end Sys2Proof.Machine
end

