-- ==== Sys2Proof/Machine/CommandQueue.lean ====
section
/-! DEFINITION. The meanings of the CMD rows, each the Enqueue of its entry (R110, R180), and of EXEC, the
execution step in which a command takes its effect (R183-R186, log 15). -/

namespace Sys2Proof.Machine

/-- `ENQ SetMode` (R180); the command's effect at EXEC is `applySetMode` (R213). -/
def execSetMode (ps : List Word) (s : State) : Outcome := .next (s.enqueue ⟨0x10, ps⟩)

/-- `ENQ Push` (R180); the effect at EXEC is `applyPush` (R218). -/
def execPush (ps : List Word) (s : State) : Outcome := .next (s.enqueue ⟨0x11, ps⟩)

/-- `ENQ Pop` (R180); the effect at EXEC is `applyPop` (R219). -/
def execPop (ps : List Word) (s : State) : Outcome := .next (s.enqueue ⟨0x12, ps⟩)

/-- `ENQ StoreToStack` (R180); the effect at EXEC is `applyStoreToStack` (R220). -/
def execStoreToStack (ps : List Word) (s : State) : Outcome := .next (s.enqueue ⟨0x13, ps⟩)

/-- `ENQ RestoreFromStack` (R180); the effect at EXEC is `applyRestoreFromStack` (R221). -/
def execRestoreFromStack (ps : List Word) (s : State) : Outcome := .next (s.enqueue ⟨0x14, ps⟩)

/-- `ENQ LoadIdentity` (R180); the effect at EXEC is `applyLoadIdentity` (R214). -/
def execLoadIdentity (ps : List Word) (s : State) : Outcome := .next (s.enqueue ⟨0x15, ps⟩)

/-- `ENQ LoadMatrix` (R180); the effect at EXEC is `applyLoadMatrix` (R215). -/
def execLoadMatrix (ps : List Word) (s : State) : Outcome := .next (s.enqueue ⟨0x16, ps⟩)

/-- `ENQ Multiply` (R180); the effect at EXEC is `applyMultiply` (R216). -/
def execMultiply (ps : List Word) (s : State) : Outcome := .next (s.enqueue ⟨0x18, ps⟩)

/-- Tag 0x17 (R182): Check refuses the entry, so `S.refused` is set and nothing else changes. -/
def execRefusedTag17 (ps : List Word) (s : State) : Outcome := .next (s.enqueue ⟨0x17, ps⟩)

/-- Tag 0x19 (R182). -/
def execRefusedTag19 (ps : List Word) (s : State) : Outcome := .next (s.enqueue ⟨0x19, ps⟩)

/-- Tag 0x1A (R182). -/
def execRefusedTag1A (ps : List Word) (s : State) : Outcome := .next (s.enqueue ⟨0x1A, ps⟩)

/-- Tag 0x1B (R182). -/
def execRefusedTag1B (ps : List Word) (s : State) : Outcome := .next (s.enqueue ⟨0x1B, ps⟩)

/-- Tag 0x1C (R182). -/
def execRefusedTag1C (ps : List Word) (s : State) : Outcome := .next (s.enqueue ⟨0x1C, ps⟩)

/-- `ENQ Opaque` (R180); at EXEC the entry is forwarded to the rendering engine (R186). -/
def execOpaqueCmd (tag : Byte) (ps : List Word) (s : State) : Outcome := .next (s.enqueue ⟨tag, ps⟩)

/-- The end of an execution step: Recompute, which runs "after every Exec step, including the matrix
command it applied" (R265, R264 "at the end of every operation"), so also after a command that raised a
fault, "with `S` otherwise as Dispatch left it" (R183, log 6). -/
def State.finishExec (emitted : List Entry) (a : Applied) (s : State) : State :=
  match a with
  | .ok b => { s.ok (b.recompute s.cfg.gxIrqDelay) .done with rendered := s.rendered ++ emitted }
  | .raised f b => (s.ok (b.recompute s.cfg.gxIrqDelay) .done).raiseFault f

/-- EXEC (R183): take the pipe's oldest entry, refill, Dispatch, Recompute. Enabled exactly when the
pipe is not empty and no fault is recorded (R184, log 8). -/
def execExec (s : State) : Outcome :=
  match s.blk.fault, s.blk.pipe with
  | some _, _ => .fault .execNotEnabled
  | none, [] => .fault .execNotEnabled
  | none, e :: _ =>
    match e.command with
    | none => .fault .unacceptedEntry
    | some c => .next (s.finishExec c.emitted (applyCommand s.cfg.mulOrder c s.blk.takeHead))

end Sys2Proof.Machine
end

