-- ==== Sys2Proof/Machine/RegisterBank.lean ====
section
/-! DEFINITION. Byte reads and writes of the registers on both pages (R150-R159, R290-R295), and the
meanings of the GX page's BUS rows. -/

namespace Sys2Proof.Machine

/-! ### Reads (R152, R154, R156, R158, R290, R292, R294) -/

/-- The value of a register as the bus sees it, zero-extended to 32 bits where it is narrower. -/
def readReg (r : Register) (k : Nat) (b : Blk) : Byte :=
  match r with
  | .clearColor => getByte b.clearColor k
  | .clearDepth => getByte b.clearDepth k
  | .texParams => getByte b.texParams k
  | .gxstat => getByte b.gxstatValue k
  | .masterEnable => getByte (b.IME.setWidth 32) k
  | .enable => getByte (b.IE.setWidth 32) k
  | .request => getByte (b.IF.setWidth 32) k

/-- The byte a read of an offset returns (R150): the register's byte, or 0x00 where nothing is mapped
(R87). This is the block's whole address space, as one function. -/
def busByte (tex : Option Offset) (pg : Page) (off : Offset) (b : Blk) : Byte :=
  match regAt tex pg off with
  | some (r, k) => readReg r k b
  | none => 0

/-! ### Writes -/

/-- WriteGXSTAT(k, v) (R159): byte 1's write-1-to-clear flags, byte 3's IRQ_MODE, every other bit
ignored; then Recompute. -/
def writeGxstat (delay : Nat) (k : Nat) (v : Byte) (b : Blk) : Blk :=
  Blk.recompute delay
    (if k = 1 then b.clearFlags v
     else if k = 3 then { b with irqMode := v.extractLsb' 6 2 }
     else b)

/-- WriteIE(k, v) (R291): the byte replaced, masked to the 14 source bits. -/
def writeIE (k : Nat) (v : Byte) (b : Blk) : Blk :=
  { b with IE := (setByte (b.IE.setWidth 32) k v).setWidth 14 }

/-- WriteIME(k, v) (R293): the byte replaced, masked to bit 0. -/
def writeIME (k : Nat) (v : Byte) (b : Blk) : Blk :=
  { b with IME := (setByte (b.IME.setWidth 32) k v).setWidth 1 }

/-- WriteIF(k, v) (R295), the acknowledge: `S.IF & ~((zext_32(v) << 8k) & MASK14)`. -/
def writeIF (k : Nat) (v : Byte) (b : Blk) : Blk :=
  { b with IF := b.IF &&& ~~~((v.setWidth 32 <<< (8 * k) : Word).setWidth 14) }

/-- The write of a register's byte (R151, R153, R155, R157, R159, R291, R293, R295). -/
def writeReg (delay : Nat) (r : Register) (k : Nat) (v : Byte) (b : Blk) : Blk :=
  match r with
  | .clearColor => { b with clearColor := setByte b.clearColor k v }
  | .clearDepth => { b with clearDepth := setByte b.clearDepth k v }
  | .texParams => { b with texParams := setByte b.texParams k v }
  | .gxstat => writeGxstat delay k v b
  | .masterEnable => writeIME k v b
  | .enable => writeIE k v b
  | .request => writeIF k v b

/-! ### Dispatch (R150, R151) -/

/-- BusRead(pg, addr) (R150): page validation (R86), then the register at the offset, else an unmapped
read (R87). -/
def State.busRead (pg : Page) (addr : Addr) (s : State) : State :=
  if Addr.selector addr = s.cfg.selector pg then
    match regAt s.cfg.texOffset pg (Addr.offset addr) with
    | some (r, k) => s.ok s.blk (.byte (readReg r k s.blk))
    | none => s.ok (s.blk.emitDiag .unmappedRead addr) (.byte 0)
  else s.raiseFault (.wiring addr)

/-- BusWrite(pg, addr, v) (R151): page validation (R86), then the register at the offset, else an
unmapped write (R87). -/
def State.busWrite (pg : Page) (addr : Addr) (v : Byte) (s : State) : State :=
  if Addr.selector addr = s.cfg.selector pg then
    match regAt s.cfg.texOffset pg (Addr.offset addr) with
    | some (r, k) => s.ok (writeReg s.cfg.gxIrqDelay r k v s.blk) .done
    | none => s.ok (s.blk.emitDiag .unmappedWrite addr) .done
  else s.raiseFault (.wiring addr)

/-! ### The BUS rows of the GX page

Each is BusRead or BusWrite at the row's address; the register follows from the offset (R150). -/

/-- ReadClearColor(k) (R152). -/
def execRd8ClearColor (sel : PageSel) (k : BitVec 2) (s : State) : Outcome :=
  .next (s.busRead .gx (addrOf sel (offsetOf Config.clearColorOffset k)))

/-- WriteClearColor(k, v) (R153). -/
def execWr8ClearColor (sel : PageSel) (k : BitVec 2) (v : Byte) (s : State) : Outcome :=
  .next (s.busWrite .gx (addrOf sel (offsetOf Config.clearColorOffset k)) v)

/-- ReadClearDepth(k) (R154). -/
def execRd8ClearDepth (sel : PageSel) (k : BitVec 1) (s : State) : Outcome :=
  .next (s.busRead .gx (addrOf sel (offsetOf Config.clearDepthOffset k)))

/-- WriteClearDepth(k, v) (R155). -/
def execWr8ClearDepth (sel : PageSel) (k : BitVec 1) (v : Byte) (s : State) : Outcome :=
  .next (s.busWrite .gx (addrOf sel (offsetOf Config.clearDepthOffset k)) v)

/-- ReadTexParams(k) (R156) at offset `TEXPARAMS_OFFSET + k`. Where that parameter does not place the
register at the offset, R156 leaves the offset to the other rules, as R150 does. -/
def execRd8TextureParams (sel : PageSel) (off : Offset) (s : State) : Outcome :=
  .next (s.busRead .gx (addrOf sel off))

/-- WriteTexParams(k, v) (R157) at offset `TEXPARAMS_OFFSET + k`. -/
def execWr8TextureParams (sel : PageSel) (off : Offset) (v : Byte) (s : State) : Outcome :=
  .next (s.busWrite .gx (addrOf sel off) v)

/-- ReadGXSTAT(k) (R158). -/
def execRd8Gxstat (sel : PageSel) (k : BitVec 2) (s : State) : Outcome :=
  .next (s.busRead .gx (addrOf sel (offsetOf Config.gxstatOffset k)))

/-- WriteGXSTAT(k, v) (R159). -/
def execWr8Gxstat (sel : PageSel) (k : BitVec 2) (v : Byte) (s : State) : Outcome :=
  .next (s.busWrite .gx (addrOf sel (offsetOf Config.gxstatOffset k)) v)

/-- A read of an unmapped GX offset (R87). -/
def execRd8GxUnmapped (sel : PageSel) (off : Offset) (s : State) : Outcome :=
  .next (s.busRead .gx (addrOf sel off))

/-- A write of an unmapped GX offset (R87). -/
def execWr8GxUnmapped (sel : PageSel) (off : Offset) (v : Byte) (s : State) : Outcome :=
  .next (s.busWrite .gx (addrOf sel off) v)

end Sys2Proof.Machine
end

