-- ==== Sys2Proof/Machine/InterruptController.lean ====
section
/-! DEFINITION. The meanings of the IRQ page's BUS rows (R290-R295), of RAISE (R297) and of POLL (R298). -/

namespace Sys2Proof.Machine

/-- ReadIME(k) (R292). -/
def execRd8MasterEnable (sel : PageSel) (k : BitVec 2) (s : State) : Outcome :=
  .next (s.busRead .irq (addrOf sel (offsetOf Config.masterEnableOffset k)))

/-- WriteIME(k, v) (R293). -/
def execWr8MasterEnable (sel : PageSel) (k : BitVec 2) (v : Byte) (s : State) : Outcome :=
  .next (s.busWrite .irq (addrOf sel (offsetOf Config.masterEnableOffset k)) v)

/-- ReadIE(k) (R290). -/
def execRd8Enable (sel : PageSel) (k : BitVec 2) (s : State) : Outcome :=
  .next (s.busRead .irq (addrOf sel (offsetOf Config.enableOffset k)))

/-- WriteIE(k, v) (R291). -/
def execWr8Enable (sel : PageSel) (k : BitVec 2) (v : Byte) (s : State) : Outcome :=
  .next (s.busWrite .irq (addrOf sel (offsetOf Config.enableOffset k)) v)

/-- ReadIF(k) (R294). -/
def execRd8Request (sel : PageSel) (k : BitVec 2) (s : State) : Outcome :=
  .next (s.busRead .irq (addrOf sel (offsetOf Config.requestOffset k)))

/-- WriteIF(k, v) (R295). -/
def execWr8Request (sel : PageSel) (k : BitVec 2) (v : Byte) (s : State) : Outcome :=
  .next (s.busWrite .irq (addrOf sel (offsetOf Config.requestOffset k)) v)

/-- A read of an unmapped IRQ offset (R87). -/
def execRd8IrqUnmapped (sel : PageSel) (off : Offset) (s : State) : Outcome :=
  .next (s.busRead .irq (addrOf sel off))

/-- A write of an unmapped IRQ offset (R87). -/
def execWr8IrqUnmapped (sel : PageSel) (off : Offset) (v : Byte) (s : State) : Outcome :=
  .next (s.busWrite .irq (addrOf sel off) v)

/-- RAISE(src) (R297): a source above 13 is refused, else its Request bit is set whatever IE and IME
hold. -/
def execRaise (src : Byte) (s : State) : Outcome :=
  .next
    (if src.toNat > 13 then s.refuse (.source src)
     else s.ok { s.blk with IF := s.blk.IF ||| ((1 : BitVec 14) <<< src.toNat) } .done)

/-- POLL (R298): returns the predicate; no field of `S` changes. -/
def execPoll (s : State) : Outcome := .next (s.ok s.blk (.flag s.blk.interruptsRequested))

end Sys2Proof.Machine
end

