-- ==== Sys2Proof/Machine/Dispatch.lean ====
section
/-! DEFINITION. `exec`: one arm per row of the opcode table, each one direct call of its meaning. -/

namespace Sys2Proof.Machine

def exec (i : Instr) (s : State) : Host.Outcome State Fault Refusal :=
  match i with
  -- CMD
  | .setMode ps => Sys2Proof.Machine.execSetMode ps s
  | .push ps => Sys2Proof.Machine.execPush ps s
  | .pop ps => Sys2Proof.Machine.execPop ps s
  | .storeToStack ps => Sys2Proof.Machine.execStoreToStack ps s
  | .restoreFromStack ps => Sys2Proof.Machine.execRestoreFromStack ps s
  | .loadIdentity ps => Sys2Proof.Machine.execLoadIdentity ps s
  | .loadMatrix ps => Sys2Proof.Machine.execLoadMatrix ps s
  | .refusedTag17 ps => Sys2Proof.Machine.execRefusedTag17 ps s
  | .multiply ps => Sys2Proof.Machine.execMultiply ps s
  | .refusedTag19 ps => Sys2Proof.Machine.execRefusedTag19 ps s
  | .refusedTag1A ps => Sys2Proof.Machine.execRefusedTag1A ps s
  | .refusedTag1B ps => Sys2Proof.Machine.execRefusedTag1B ps s
  | .refusedTag1C ps => Sys2Proof.Machine.execRefusedTag1C ps s
  | .opaqueCmd tag ps => Sys2Proof.Machine.execOpaqueCmd tag ps s
  -- BUS, GX page
  | .rd8ClearColor sel k => Sys2Proof.Machine.execRd8ClearColor sel k s
  | .wr8ClearColor sel k v => Sys2Proof.Machine.execWr8ClearColor sel k v s
  | .rd8ClearDepth sel k => Sys2Proof.Machine.execRd8ClearDepth sel k s
  | .wr8ClearDepth sel k v => Sys2Proof.Machine.execWr8ClearDepth sel k v s
  | .rd8TextureParams sel off => Sys2Proof.Machine.execRd8TextureParams sel off s
  | .wr8TextureParams sel off v => Sys2Proof.Machine.execWr8TextureParams sel off v s
  | .rd8Gxstat sel k => Sys2Proof.Machine.execRd8Gxstat sel k s
  | .wr8Gxstat sel k v => Sys2Proof.Machine.execWr8Gxstat sel k v s
  | .rd8GxUnmapped sel off => Sys2Proof.Machine.execRd8GxUnmapped sel off s
  | .wr8GxUnmapped sel off v => Sys2Proof.Machine.execWr8GxUnmapped sel off v s
  -- BUS, IRQ page
  | .rd8MasterEnable sel k => Sys2Proof.Machine.execRd8MasterEnable sel k s
  | .wr8MasterEnable sel k v => Sys2Proof.Machine.execWr8MasterEnable sel k v s
  | .rd8Enable sel k => Sys2Proof.Machine.execRd8Enable sel k s
  | .wr8Enable sel k v => Sys2Proof.Machine.execWr8Enable sel k v s
  | .rd8Request sel k => Sys2Proof.Machine.execRd8Request sel k s
  | .wr8Request sel k v => Sys2Proof.Machine.execWr8Request sel k v s
  | .rd8IrqUnmapped sel off => Sys2Proof.Machine.execRd8IrqUnmapped sel off s
  | .wr8IrqUnmapped sel off v => Sys2Proof.Machine.execWr8IrqUnmapped sel off v s
  -- PORT
  | .exec => Sys2Proof.Machine.execExec s
  | .tick => Sys2Proof.Machine.execTick s
  | .raise src => Sys2Proof.Machine.execRaise src s
  | .testset v => Sys2Proof.Machine.execTestset v s
  | .poll => Sys2Proof.Machine.execPoll s
  | .reset => Sys2Proof.Machine.execReset s
  | .refusedPort code => Sys2Proof.Machine.execRefusedPort code s

end Sys2Proof.Machine
end

