-- ==== Sys2Proof/Machine/Step.lean ====
section
/-! DEFINITION. One step of the machine: the next operation of the stepping loop's order is decoded and
performed (R89). -/

namespace Sys2Proof.Machine

/-- One atomic step (R89). The operation leaves `inputs` as it is performed. With nothing presented the
machine is stuck (log 1); a raw operation the decoder refuses is refused by name (log 10). -/
def step (s : State) : Host.Outcome State Fault Refusal :=
  match s.inputs with
  | [] => .fault .noOperation
  | op :: rest =>
    match decode s.cfg.texOffset op with
    | .ok i => exec i { s with inputs := rest }
    | .error e => .refused (.undecodable e)

/-- `s` with the operation of an opcode-table word put first in the stepping loop's order, so that the
very next step performs it (log 1, log 17). -/
def State.withFetchWord (s : State) (nbits w : Nat) : State :=
  { s with inputs := rawOfTable nbits w :: s.inputs }

end Sys2Proof.Machine
end

