-- ==== Sys2Proof/Machine/System.lean ====
section
/-! DEFINITION. The bus layer in front of the block. R354: "A model of the system holds the bus agent's
enqueue until an Exec step has made room". The block alone (`step`) answers `Full` and goes on, as R181
has it; `System` puts the bus agent's program and its hold around it (log 14). -/

namespace Sys2Proof.Machine

/-- The operations by which the entries that a sequence of bus writes becomes are presented at the
enqueue port (`CMD_PORT_MAP` of R7, D14, log 11). -/
def cmdPortOps (writes : List (Addr × Byte)) : List RawOp :=
  (Config.cmdPortMap writes).map fun e => .cmd ⟨e.1, e.2⟩

/-- Whose step the stepping loop takes next (R89). -/
inductive Turn where
  /-- The bus agent's: the next operation of its program. -/
  | bus
  /-- Another agent's, by its port (R5, R120). -/
  | port (code operand : Byte)
  deriving DecidableEq, Repr

/-- The block with the bus layer's hold. -/
structure System where
  /-- The block. -/
  core : State
  /-- The bus agent's operations still to perform, in program order (R89). -/
  program : List RawOp
  /-- The stepping loop's choice of turns, the next one first (R89). -/
  turns : List Turn
  deriving DecidableEq, Repr

/-- Whether the bus agent is held: its next operation presents an entry, and there is no room (R354:
"The bus layer must not present an entry while `count(S) = 260`"). It looks at the room alone, so a RESET,
which empties both buffers, ends the hold as EXEC does: DESIGN CHOICE, as R354 names EXEC only (log 14). -/
def System.held (y : System) : Bool :=
  match y.program with
  | .cmd _ :: _ => y.core.blk.noRoom
  | .bus _ _ _ :: _ => false
  | .port _ _ :: _ => false
  | [] => false

/-- The block performs one operation; the program and the turns become those given. -/
def System.perform (op : RawOp) (program : List RawOp) (turns : List Turn) (y : System) :
    Host.Outcome System Fault Refusal :=
  match Sys2Proof.Machine.step { y.core with inputs := op :: y.core.inputs } with
  | .next t => .next ⟨t, program, turns⟩
  | .fault r => .fault r
  | .refused r => .refused r

/-- One turn. A held bus agent, or one with nothing left to do, lets its turn pass: the entry waits, and
"the hold is lifted by Exec" (R354), or by a RESET (the model's choice, log 14). -/
def System.step (y : System) : Host.Outcome System Fault Refusal :=
  match y.turns with
  | [] => .fault .noOperation
  | .port code operand :: rest => y.perform (.port code operand) y.program rest
  | .bus :: rest =>
    match y.program with
    | [] => .next { y with turns := rest }
    | op :: program => if y.held then .next { y with turns := rest } else y.perform op program rest

end Sys2Proof.Machine
end

