-- ==== Sys2Proof/Safety.lean ====
section
/-! DEFINITION. The terms claims are stated in: what a safe state is, the invariant of the block, what kind
of operation an instruction is, and several operations in a row. -/

namespace Sys2Proof.Machine

/-! ### Safe states -/

/-- A state with no fault, no refusal and no lost entry recorded. "A faulted state is never final" and a
refusal "is kept as a whole-state mark" (R10): a claim about a whole run asks this of its last state, and
since no mark is ever cleared (R51) that asks it of every state of the run. The third mark excludes the
runs past a `Full`, which "the hardware lacks" (R354, log 14). -/
def Unmarked (s : State) : Prop := s.blk.fault = none ∧ s.blk.refused = false ∧ s.overrun = false

/-- The invariant of the block, which RESET establishes and every step keeps. -/
structure Inv (s : State) : Prop where
  /-- R38: `len(S.pipe) <= 4`. -/
  pipeLe : s.blk.pipe.length ≤ Config.pipeCap
  /-- R38: `len(S.queue) <= 256`. -/
  queueLe : s.blk.queue.length ≤ Config.queueCap
  /-- R38: `len(S.queue) > 0` implies `len(S.pipe) = 4`. -/
  refilled : s.blk.queue ≠ [] → s.blk.pipe.length = Config.pipeCap
  /-- R182: a refused entry is not stored. -/
  accepted : ∀ e ∈ s.blk.held, e.check = none
  /-- R44. -/
  spProjLe : s.blk.spProj ≤ Config.projCap
  /-- R44. -/
  spPvLe : s.blk.spPv ≤ Config.pvCap
  /-- R44. -/
  spTexLe : s.blk.spTex ≤ Config.texCap
  /-- R50, R266, R267: a scheduled delivery has between 1 and `GX_IRQ_DELAY` ticks left. -/
  pendingLe : ∀ p ∈ s.blk.pending, 1 ≤ p ∧ p ≤ s.cfg.gxIrqDelay
  /-- R265: outside the operations that recompute, `cond(S)` does not change, so `prev_cond` is
  `cond(S)`. -/
  prevCond : s.blk.prevCond = s.blk.cond
  /-- R81, R7. -/
  cfgLegal : paramsLegal s.cfg = true

/-! ### Kinds of operation -/

/-- The bus access of a BUS row (R118): the page it is routed to, its full address, and the byte of a
write. -/
def busAccess : Instr → Option (Page × Addr × Option Byte)
  | .rd8ClearColor sel k => some (.gx, addrOf sel (offsetOf 0x350 k), none)
  | .wr8ClearColor sel k v => some (.gx, addrOf sel (offsetOf 0x350 k), some v)
  | .rd8ClearDepth sel k => some (.gx, addrOf sel (offsetOf 0x354 k), none)
  | .wr8ClearDepth sel k v => some (.gx, addrOf sel (offsetOf 0x354 k), some v)
  | .rd8TextureParams sel off => some (.gx, addrOf sel off, none)
  | .wr8TextureParams sel off v => some (.gx, addrOf sel off, some v)
  | .rd8Gxstat sel k => some (.gx, addrOf sel (offsetOf 0x600 k), none)
  | .wr8Gxstat sel k v => some (.gx, addrOf sel (offsetOf 0x600 k), some v)
  | .rd8GxUnmapped sel off => some (.gx, addrOf sel off, none)
  | .wr8GxUnmapped sel off v => some (.gx, addrOf sel off, some v)
  | .rd8MasterEnable sel k => some (.irq, addrOf sel (offsetOf 0x208 k), none)
  | .wr8MasterEnable sel k v => some (.irq, addrOf sel (offsetOf 0x208 k), some v)
  | .rd8Enable sel k => some (.irq, addrOf sel (offsetOf 0x210 k), none)
  | .wr8Enable sel k v => some (.irq, addrOf sel (offsetOf 0x210 k), some v)
  | .rd8Request sel k => some (.irq, addrOf sel (offsetOf 0x214 k), none)
  | .wr8Request sel k v => some (.irq, addrOf sel (offsetOf 0x214 k), some v)
  | .rd8IrqUnmapped sel off => some (.irq, addrOf sel off, none)
  | .wr8IrqUnmapped sel off v => some (.irq, addrOf sel off, some v)
  | .setMode _ | .push _ | .pop _ | .storeToStack _ | .restoreFromStack _ | .loadIdentity _
  | .loadMatrix _ | .refusedTag17 _ | .multiply _ | .refusedTag19 _ | .refusedTag1A _
  | .refusedTag1B _ | .refusedTag1C _ | .opaqueCmd _ _
  | .exec | .tick | .raise _ | .testset _ | .poll | .reset | .refusedPort _ => none

/-- The entry of a CMD row (R111, R112). -/
def cmdEntry : Instr → Option Entry
  | .setMode ps => some ⟨0x10, ps⟩
  | .push ps => some ⟨0x11, ps⟩
  | .pop ps => some ⟨0x12, ps⟩
  | .storeToStack ps => some ⟨0x13, ps⟩
  | .restoreFromStack ps => some ⟨0x14, ps⟩
  | .loadIdentity ps => some ⟨0x15, ps⟩
  | .loadMatrix ps => some ⟨0x16, ps⟩
  | .refusedTag17 ps => some ⟨0x17, ps⟩
  | .multiply ps => some ⟨0x18, ps⟩
  | .refusedTag19 ps => some ⟨0x19, ps⟩
  | .refusedTag1A ps => some ⟨0x1A, ps⟩
  | .refusedTag1B ps => some ⟨0x1B, ps⟩
  | .refusedTag1C ps => some ⟨0x1C, ps⟩
  | .opaqueCmd tag ps => some ⟨tag, ps⟩
  | .rd8ClearColor _ _ | .wr8ClearColor _ _ _ | .rd8ClearDepth _ _ | .wr8ClearDepth _ _ _
  | .rd8TextureParams _ _ | .wr8TextureParams _ _ _ | .rd8Gxstat _ _ | .wr8Gxstat _ _ _
  | .rd8GxUnmapped _ _ | .wr8GxUnmapped _ _ _ | .rd8MasterEnable _ _ | .wr8MasterEnable _ _ _
  | .rd8Enable _ _ | .wr8Enable _ _ _ | .rd8Request _ _ | .wr8Request _ _ _
  | .rd8IrqUnmapped _ _ | .wr8IrqUnmapped _ _ _
  | .exec | .tick | .raise _ | .testset _ | .poll | .reset | .refusedPort _ => none

/-- The CMD operations that R182 accepts, with their entry: each matrix command with its arity of R112,
and every Opaque tag with any words. -/
inductive Accepts : Instr → Entry → Prop where
  | setMode (p : Word) : Accepts (.setMode [p]) ⟨0x10, [p]⟩
  | push : Accepts (.push []) ⟨0x11, []⟩
  | pop (p : Word) : Accepts (.pop [p]) ⟨0x12, [p]⟩
  | storeToStack (p : Word) : Accepts (.storeToStack [p]) ⟨0x13, [p]⟩
  | restoreFromStack (p : Word) : Accepts (.restoreFromStack [p]) ⟨0x14, [p]⟩
  | loadIdentity : Accepts (.loadIdentity []) ⟨0x15, []⟩
  | loadMatrix (ps : List Word) (h : ps.length = 16) : Accepts (.loadMatrix ps) ⟨0x16, ps⟩
  | multiply (ps : List Word) (h : ps.length = 16) : Accepts (.multiply ps) ⟨0x18, ps⟩
  | opaqueCmd (tag : Byte) (ps : List Word) (h : isOpaqueTag tag = true) :
      Accepts (.opaqueCmd tag ps) ⟨tag, ps⟩

/-! ### Several operations in a row -/

/-- The operations of a list, performed in order (R89), stopping at the first that has no next state. -/
def execAll : List Instr → State → Outcome
  | [], s => .next s
  | i :: is, s =>
    match exec i s with
    | .next t => execAll is t
    | .fault r => .fault r
    | .refused r => .refused r

/-- The raw operation with the bits that no rule gives a meaning set to 0: the data byte of a read
(R118 "the byte written (write only)") and the operand of a port code that takes none (R120). -/
def canonical : RawOp → RawOp
  | .cmd e => .cmd e
  | .bus word addr data => .bus word addr (if word.getLsbD 12 then data else 0)
  | .port code operand => .port code (if code = 0x03 ∨ code = 0x04 then operand else 0)

end Sys2Proof.Machine
end

