-- ==== Sys2Proof/Certificates/Slice0/Obligations.lean ====
section
/-! DEFINITION. The statements for the provers. The functions of the first part restate a rule row by row,
in the rule's own order, so that a statement does not lean on the shared operations it is about. -/

open Sys2Proof Sys2Proof.Machine

/-! ### Restatements -/

/-- A BUS word decodes to an instruction whatever the page selector and the data byte of the access
are (R118: the address's low 12 bits are the word's). -/
def Sys2Proof.BusEncodes (tex : Option Offset) (word : BusWord) (i : PageSel → Byte → Instr) : Prop :=
  ∀ sel data, decode tex (.bus word (addrOf sel (word.extractLsb' 0 12)) data) = .ok (i sel data)

/-- The GX offsets R81 does not list. -/
def Sys2Proof.GxUnmapped (tex : Option Offset) (off : Offset) : Prop :=
  ¬ (0x350 ≤ off.toNat ∧ off.toNat ≤ 0x353) ∧ ¬ (0x354 ≤ off.toNat ∧ off.toNat ≤ 0x355) ∧
  ¬ (0x600 ≤ off.toNat ∧ off.toNat ≤ 0x603) ∧
  ∀ t, tex = some t → ¬ (t.toNat ≤ off.toNat ∧ off.toNat ≤ t.toNat + 3)

/-- The IRQ offsets R82 does not list. -/
def Sys2Proof.IrqUnmapped (off : Offset) : Prop :=
  ¬ (0x208 ≤ off.toNat ∧ off.toNat ≤ 0x20B) ∧ ¬ (0x210 ≤ off.toNat ∧ off.toNat ≤ 0x213) ∧
  ¬ (0x214 ≤ off.toNat ∧ off.toNat ≤ 0x217)

/-- R212's column "load/multiply targets", row by row: `for X in targets: S.X <- f(S.X)`. -/
def Sys2Proof.ByMode.onTargets (f : Matrix → Matrix) (b : Blk) : Blk :=
  match b.mode with
  | .projection => { b with P := f b.P }
  | .position => { b with Pos := f b.Pos }
  | .positionVector => { b with Pos := f b.Pos, Vec := f b.Vec }
  | .texture => { b with T := f b.T }

/-- R218, row by row of R212. -/
def Sys2Proof.ByMode.push (b : Blk) : Blk :=
  match b.mode with
  | .projection =>
    if b.spProj = 1 then { b with overflow := true }
    else { b with projStack := b.projStack.setIfInBounds b.spProj b.P, spProj := b.spProj + 1 }
  | .position | .positionVector =>
    if b.spPv = 31 then { b with overflow := true }
    else { b with
      posStack := b.posStack.setIfInBounds b.spPv b.Pos
      vecStack := b.vecStack.setIfInBounds b.spPv b.Vec
      spPv := b.spPv + 1 }
  | .texture =>
    if b.spTex = 1 then { b with overflow := true }
    else { b with texStack := b.texStack.setIfInBounds b.spTex b.T, spTex := b.spTex + 1 }

/-- R220, row by row of R212. -/
def Sys2Proof.ByMode.store (slot : Nat) (b : Blk) : Blk :=
  match b.mode with
  | .projection =>
    if 1 ≤ slot then { b with overflow := true }
    else { b with projStack := b.projStack.setIfInBounds slot b.P }
  | .position | .positionVector =>
    if 31 ≤ slot then { b with overflow := true }
    else { b with
      posStack := b.posStack.setIfInBounds slot b.Pos
      vecStack := b.vecStack.setIfInBounds slot b.Vec }
  | .texture =>
    if 1 ≤ slot then { b with overflow := true }
    else { b with texStack := b.texStack.setIfInBounds slot b.T }

/-- `b'` is `b` with the matrices the mode saves loaded from slot `i` of their stacks (R212), the slot
being one that exists. -/
def Sys2Proof.ByMode.Restores (i : Nat) (b b' : Blk) : Prop :=
  match b.mode with
  | .projection => ∃ h : i < 1, b' = { b with P := b.projStack[i] }
  | .position | .positionVector =>
    ∃ h : i < 31, b' = { b with Pos := b.posStack[i], Vec := b.vecStack[i] }
  | .texture => ∃ h : i < 1, b' = { b with T := b.texStack[i] }

/-- R212's column "capacity", row by row. -/
def Sys2Proof.ByMode.capacity : Mode → Nat
  | .projection => 1
  | .position => 31
  | .positionVector => 31
  | .texture => 1

/-- R212's column "pointer", row by row. -/
def Sys2Proof.ByMode.pointer (b : Blk) : Nat :=
  match b.mode with
  | .projection => b.spProj
  | .position => b.spPv
  | .positionVector => b.spPv
  | .texture => b.spTex

/-- The pointer of R212's row written. -/
def Sys2Proof.ByMode.withPointer (n : Nat) (b : Blk) : Blk :=
  match b.mode with
  | .projection => { b with spProj := n }
  | .position => { b with spPv := n }
  | .positionVector => { b with spPv := n }
  | .texture => { b with spTex := n }

/-- R183's removal and refill: the entry after the head of the pipe, then at most one entry of the
queue. -/
def Sys2Proof.afterRefill (rest : List Entry) (b : Blk) : Blk :=
  { b with pipe := rest ++ b.queue.take 1, queue := b.queue.drop 1 }

/-- R264's Recompute in full: the delivery scheduled on a false-to-true change, and the condition
recorded. -/
def Sys2Proof.recomputed (delay : Nat) (b : Blk) : Blk :=
  { b with
    pending := if b.cond = true ∧ b.prevCond = false then b.pending ++ [delay] else b.pending
    prevCond := b.cond }

/-- The state after an execution step that ends without a fault (R183): `b` is what the command made of
`S` after removal and refill. -/
def Sys2Proof.executed (s : State) (b : Blk) : State :=
  { s with result := .done, blk := recomputed s.cfg.gxIrqDelay b }

/-- The interrupt registers of `S` replaced. -/
def Sys2Proof.withIrqRegs (ie : BitVec 14) (ime : BitVec 1) (ifr : BitVec 14) (b : Blk) : Blk :=
  { b with IE := ie, IME := ime, IF := ifr }

/-! ### The step, decoding and encoding -/

/-- A step performs the operation its input decodes to, and an opcode-table word placed first is the
one the very next step performs (R89). The model's choices: how an operation reaches the step (log 1), and
how a bare table word is read (log 17). -/
def Obligations.StepPerformsTheDecodedOperation : Prop :=
  (∀ (s : State) (op : RawOp) (rest : List RawOp) (i : Instr),
    s.inputs = op :: rest → decode s.cfg.texOffset op = .ok i →
      step s = exec i { s with inputs := rest }) ∧
  (∀ (s : State) (nbits w : Nat) (i : Instr),
    decode s.cfg.texOffset (rawOfTable nbits w) = .ok i →
      step (s.withFetchWord nbits w) = exec i s)

/-- The model's choices of log 1 and log 10: with no operation presented the machine is stuck, and a
BUS operation whose word and address disagree on the offset is refused by name. Every operation that
decodes, EXEC apart, has a next state, one that raises a fault or is refused too (the model's reading of
log 5). -/
def Obligations.StepStopsWithoutADecodedOperation : Prop :=
  (∀ s : State, s.inputs = [] → step s = .fault .noOperation) ∧
  (∀ (s : State) (word : BusWord) (addr : Addr) (data : Byte) (rest : List RawOp),
    s.inputs = .bus word addr data :: rest →
      word.extractLsb' 0 12 ≠ addr.extractLsb' 0 12 →
        step s = .refused (.undecodable .busOffsetMismatch)) ∧
  (∀ (s : State) (op : RawOp) (rest : List RawOp) (i : Instr),
    s.inputs = op :: rest → decode s.cfg.texOffset op = .ok i → i ≠ .exec → ∃ t, step s = .next t)

/-- Words of the spec's own test vectors (95_test_vectors.md) decode to what it says they are. -/
def Obligations.SpecWordsDecode : Prop :=
  decode none (.cmd ⟨0x10, [0x00000003]⟩) = .ok (.setMode [3]) ∧
  decode none (.cmd ⟨0x12, [0x00000041]⟩) = .ok (.pop [0x41]) ∧
  decode none (.cmd ⟨0x40, [0x00000001]⟩) = .ok (.opaqueCmd 0x40 [1]) ∧
  decode none (.cmd ⟨0x17, []⟩) = .ok (.refusedTag17 []) ∧
  decode none (.bus 0x1352 0x04000352 0xAB) = .ok (.wr8ClearColor 0x04000 2 0xAB) ∧
  decode none (.bus 0x1603 0x04000603 0x80) = .ok (.wr8Gxstat 0x04000 3 0x80) ∧
  decode (some 0x400) (.bus 0x1403 0x04000403 0x12) = .ok (.wr8TextureParams 0x04000 0x403 0x12) ∧
  decode none (.bus 0x1403 0x04000403 0x12) = .ok (.wr8GxUnmapped 0x04000 0x403 0x12) ∧
  decode none (.bus 0x3211 0x04000211 0x01) = .ok (.wr8Enable 0x04000 1 0x01) ∧
  decode none (.bus 0x2215 0x04000215 0x00) = .ok (.rd8Request 0x04000 1) ∧
  decode none (.port 0x03 0x0D) = .ok (.raise 13) ∧
  decode none (.port 0x07 0x00) = .ok (.refusedPort 7)

/-- Decoding the encoding of an operation gives it back, with every operand at every value its row
admits (R112, R118-R120). -/
def Obligations.DecodeOfEncodeIsIdentity : Prop :=
  ∀ (tex : Option Offset), texOffsetLegal tex = true →
    ∀ i : Instr, i.inRow tex = true → decode tex (encode i) = .ok i

/-- The other direction: what is decoded lies in its own row, its encoding is the raw operation up to
the bits no rule gives a meaning, and every raw operation whose BUS word agrees with its address
decodes. For BUS words that is R119's "so the decoder is total". The model's choices: a port code that takes
no operand decodes with a nonzero one like R120's 0 (log 16), and a BUS word that disagrees with its
address is shut out (log 10). -/
def Obligations.EncodeOfDecodeIsCanonical : Prop :=
  ∀ (tex : Option Offset), texOffsetLegal tex = true →
    (∀ (r : RawOp) (i : Instr), decode tex r = .ok i →
      i.inRow tex = true ∧ encode i = canonical r) ∧
    (∀ r : RawOp, (∀ word addr data, r = .bus word addr data →
      word.extractLsb' 0 12 = addr.extractLsb' 0 12) → ∃ i, decode tex r = .ok i)

/-- R119's decode map, with the meaning of the row it finds, is R150's and R151's dispatch by offset:
for every one of the 14-bit words. That an access with the wrong selector has a next state is the model's
reading of log 5. -/
def Obligations.BusRowsAgreeWithBusDispatch : Prop :=
  ∀ (s : State) (word : BusWord) (sel : PageSel) (data : Byte),
    texOffsetLegal s.cfg.texOffset = true →
      ∃ i, decode s.cfg.texOffset (.bus word (addrOf sel (word.extractLsb' 0 12)) data) = .ok i ∧
        exec i s =
          .next
            (if word.getLsbD 12 then
              s.busWrite (if word.getLsbD 13 then .irq else .gx)
                (addrOf sel (word.extractLsb' 0 12)) data
            else
              s.busRead (if word.getLsbD 13 then .irq else .gx)
                (addrOf sel (word.extractLsb' 0 12)))

/-! ### The register bank -/

/-- R152: ReadClearColor. -/
def Obligations.ReadClearColorReturnsItsByte : Prop :=
  (∀ (tex : Option Offset) (k : BitVec 2),
    BusEncodes tex (0x0350 + k.setWidth 14) fun sel _ => .rd8ClearColor sel k) ∧
  ∀ (s : State) (sel : PageSel) (k : BitVec 2), sel = s.cfg.gxPage →
    exec (.rd8ClearColor sel k) s =
      .next { s with result := .byte (s.blk.clearColor.extractLsb' (8 * k.toNat) 8) }

/-- R153: WriteClearColor. -/
def Obligations.WriteClearColorReplacesItsByte : Prop :=
  (∀ (tex : Option Offset) (k : BitVec 2),
    BusEncodes tex (0x1350 + k.setWidth 14) fun sel v => .wr8ClearColor sel k v) ∧
  ∀ (s : State) (sel : PageSel) (k : BitVec 2) (v : Byte), sel = s.cfg.gxPage →
    exec (.wr8ClearColor sel k v) s =
      .next { s with
        result := .done
        blk := { s.blk with
          clearColor :=
            (s.blk.clearColor &&& ~~~((0x000000FF : Word) <<< (8 * k.toNat)))
              ||| (v.setWidth 32 <<< (8 * k.toNat)) } }

/-- R154, R155: ReadClearDepth and WriteClearDepth; offsets 0x356 and 0x357 are no part of the register and
read 0x00, with no field of `S` changed but the diagnostic log. -/
def Obligations.ClearDepthBytesReadAndWrite : Prop :=
  (∀ (tex : Option Offset) (k : BitVec 1),
    BusEncodes tex (0x0354 + k.setWidth 14) (fun sel _ => .rd8ClearDepth sel k) ∧
    BusEncodes tex (0x1354 + k.setWidth 14) (fun sel v => .wr8ClearDepth sel k v)) ∧
  (∀ tex : Option Offset, texOffsetLegal tex = true →
    BusEncodes tex 0x0356 (fun sel _ => .rd8GxUnmapped sel 0x356) ∧
    BusEncodes tex 0x0357 (fun sel _ => .rd8GxUnmapped sel 0x357)) ∧
  (∀ (s : State) (sel : PageSel) (off : Offset),
    texOffsetLegal s.cfg.texOffset = true → sel = s.cfg.gxPage → off = 0x356 ∨ off = 0x357 →
      ∃ d, exec (.rd8GxUnmapped sel off) s =
        .next { s with
          result := .byte 0x00
          blk := { s.blk with diag := s.blk.diag ++ d } }) ∧
  ∀ (s : State) (sel : PageSel) (k : BitVec 1) (v : Byte), sel = s.cfg.gxPage →
    exec (.rd8ClearDepth sel k) s =
      .next { s with result := .byte (s.blk.clearDepth.extractLsb' (8 * k.toNat) 8) } ∧
    exec (.wr8ClearDepth sel k v) s =
      .next { s with
        result := .done
        blk := { s.blk with
          clearDepth :=
            (s.blk.clearDepth &&& ~~~((0x00FF : BitVec 16) <<< (8 * k.toNat)))
              ||| (v.setWidth 16 <<< (8 * k.toNat)) } }

/-- R156, R157: with `TEXPARAMS_OFFSET` = `t`, TextureParams reads and writes at `t + k`; with `none` no
word decodes to it. -/
def Obligations.TextureParamsBytesReadAndWrite : Prop :=
  (∀ (s : State) (t : Offset) (sel : PageSel) (k : BitVec 2) (v : Byte),
    s.cfg.texOffset = some t → texOffsetLegal (some t) = true → sel = s.cfg.gxPage →
      decode (some t) (.bus ((t + k.setWidth 12).setWidth 14) (addrOf sel (t + k.setWidth 12)) v) =
        .ok (.rd8TextureParams sel (t + k.setWidth 12)) ∧
      decode (some t) (.bus (0x1000 + (t + k.setWidth 12).setWidth 14)
        (addrOf sel (t + k.setWidth 12)) v) = .ok (.wr8TextureParams sel (t + k.setWidth 12) v) ∧
      exec (.rd8TextureParams sel (t + k.setWidth 12)) s =
        .next { s with result := .byte (s.blk.texParams.extractLsb' (8 * k.toNat) 8) } ∧
      exec (.wr8TextureParams sel (t + k.setWidth 12) v) s =
        .next { s with
          result := .done
          blk := { s.blk with
            texParams :=
              (s.blk.texParams &&& ~~~((0x000000FF : Word) <<< (8 * k.toNat)))
                ||| (v.setWidth 32 <<< (8 * k.toNat)) } }) ∧
  (∀ (r : RawOp) (sel : PageSel) (off : Offset) (v : Byte),
    decode none r ≠ .ok (.rd8TextureParams sel off) ∧
    decode none r ≠ .ok (.wr8TextureParams sel off v))

/-- A write of a byte of ClearColor, ClearDepth or TextureParams is read back at its own offset, and
every other byte of both pages reads as before. -/
def Obligations.PlainByteWriteIsReadBackAlone : Prop :=
  ∀ (s : State) (i : Instr) (sel : PageSel) (off : Offset) (v : Byte) (r : Register) (k : Nat),
    texOffsetLegal s.cfg.texOffset = true →
    busAccess i = some (.gx, addrOf sel off, some v) → sel = s.cfg.gxPage →
    regAt s.cfg.texOffset .gx off = some (r, k) → r ≠ .gxstat →
      ∃ t, exec i s = .next t ∧ t.cfg = s.cfg ∧
        ∀ (pg : Page) (off' : Offset),
          busByte t.cfg.texOffset pg off' t.blk =
            if pg = .gx ∧ off' = off then v else busByte s.cfg.texOffset pg off' s.blk

/-- R262: the value a GXSTAT read returns, field by field, with all other bits 0. -/
def Obligations.GxstatValueHasItsFields : Prop :=
  ∀ b : Blk,
    b.gxstatValue.extractLsb' 0 2 = b.test ∧
    b.gxstatValue.extractLsb' 2 12 = 0 ∧
    b.gxstatValue.getLsbD 14 = b.underflow ∧
    b.gxstatValue.getLsbD 15 = b.overflow ∧
    (b.gxstatValue.extractLsb' 16 9).toNat = min (b.queue.length + b.pipe.length) 511 ∧
    b.gxstatValue.extractLsb' 25 2 = 0 ∧
    (b.gxstatValue.getLsbD 27 = true ↔ b.queue.length + b.pipe.length > 0) ∧
    b.gxstatValue.extractLsb' 28 2 = 0 ∧
    b.gxstatValue.extractLsb' 30 2 = b.irqMode

/-- R158: ReadGXSTAT, which clears nothing and recomputes nothing. -/
def Obligations.ReadGxstatReturnsItsByte : Prop :=
  ∀ (s : State) (sel : PageSel) (k : BitVec 2),
    texOffsetLegal s.cfg.texOffset = true → sel = s.cfg.gxPage →
      BusEncodes s.cfg.texOffset (0x0600 + k.setWidth 14) (fun sel _ => .rd8Gxstat sel k) ∧
      exec (.rd8Gxstat sel k) s =
        .next { s with result := .byte (s.blk.gxstatValue.extractLsb' (8 * k.toNat) 8) }

/-- R159: WriteGXSTAT, byte by byte. -/
def Obligations.WriteGxstatClearsFlagsAndSetsMode : Prop :=
  ∀ (s : State) (sel : PageSel) (k : BitVec 2) (v : Byte),
    texOffsetLegal s.cfg.texOffset = true → sel = s.cfg.gxPage →
      BusEncodes s.cfg.texOffset (0x1600 + k.setWidth 14) (fun sel v => .wr8Gxstat sel k v) ∧
      exec (.wr8Gxstat sel k v) s =
        .next { s with
          result := .done
          blk := recomputed s.cfg.gxIrqDelay
            { s.blk with
              underflow := if k = 1 ∧ v.getLsbD 6 = true then false else s.blk.underflow
              overflow := if k = 1 ∧ v.getLsbD 7 = true then false else s.blk.overflow
              irqMode := if k = 3 then v.extractLsb' 6 2 else s.blk.irqMode } }

/-- R86: an access whose selector is not its route's raises WiringFault and changes nothing else; the
first fault recorded is kept (R51). That raising is a next state is the model's reading of log 5. -/
def Obligations.WrongPageRaisesWiringFault : Prop :=
  ∀ (s : State) (i : Instr) (pg : Page) (addr : Addr) (v : Option Byte),
    busAccess i = some (pg, addr, v) → addr.extractLsb' 12 20 ≠ s.cfg.selector pg →
      exec i s =
        .next { s with
          result := .raised (.wiring addr)
          blk := { s.blk with
            fault := if s.blk.fault = none then some (.wiring addr) else s.blk.fault } }

/-- R87: an unmapped read returns 0x00, an unmapped write changes no register, each logs its
diagnostic, neither faults; with the words of R119's four unmapped rows. -/
def Obligations.UnmappedOffsetsReadZeroAndIgnoreWrites : Prop :=
  (∀ (s : State) (sel : PageSel) (off : Offset) (v : Byte),
    texOffsetLegal s.cfg.texOffset = true → sel = s.cfg.gxPage → GxUnmapped s.cfg.texOffset off →
      decode s.cfg.texOffset (.bus (off.setWidth 14) (addrOf sel off) v) =
        .ok (.rd8GxUnmapped sel off) ∧
      decode s.cfg.texOffset (.bus (0x1000 + off.setWidth 14) (addrOf sel off) v) =
        .ok (.wr8GxUnmapped sel off v) ∧
      exec (.rd8GxUnmapped sel off) s =
        .next { s with
          result := .byte 0x00
          blk := { s.blk with diag := s.blk.diag ++ [⟨.unmappedRead, addrOf sel off⟩] } } ∧
      exec (.wr8GxUnmapped sel off v) s =
        .next { s with
          result := .done
          blk := { s.blk with diag := s.blk.diag ++ [⟨.unmappedWrite, addrOf sel off⟩] } }) ∧
  (∀ (s : State) (sel : PageSel) (off : Offset) (v : Byte),
    sel = s.cfg.irqPage → IrqUnmapped off →
      decode s.cfg.texOffset (.bus (0x2000 + off.setWidth 14) (addrOf sel off) v) =
        .ok (.rd8IrqUnmapped sel off) ∧
      decode s.cfg.texOffset (.bus (0x3000 + off.setWidth 14) (addrOf sel off) v) =
        .ok (.wr8IrqUnmapped sel off v) ∧
      exec (.rd8IrqUnmapped sel off) s =
        .next { s with
          result := .byte 0x00
          blk := { s.blk with diag := s.blk.diag ++ [⟨.unmappedRead, addrOf sel off⟩] } } ∧
      exec (.wr8IrqUnmapped sel off v) s =
        .next { s with
          result := .done
          blk := { s.blk with diag := s.blk.diag ++ [⟨.unmappedWrite, addrOf sel off⟩] } }) ∧
  (∀ tex : Option Offset, texOffsetLegal tex = true →
    GxUnmapped tex 0x356 ∧ GxUnmapped tex 0x357)

/-- R85: no read, of a register or of an unmapped offset, on the right page or the wrong one, changes a
field of `S` other than the diagnostic log and, on the wrong page, the fault record. That a read on the
wrong page has a next state is the model's reading of log 5. -/
def Obligations.BusReadsAreEffectFree : Prop :=
  ∀ (s : State) (i : Instr) (pg : Page) (addr : Addr), busAccess i = some (pg, addr, none) →
    ∃ (r : Result) (d : List DiagEvent) (f : Option ModelFault),
      exec i s =
        .next { s with result := r, blk := { s.blk with diag := s.blk.diag ++ d, fault := f } } ∧
      (addr.extractLsb' 12 20 = s.cfg.selector pg → f = s.blk.fault)

/-! ### The interrupt controller -/

/-- R290, R292, R294: ReadIE, ReadIME and ReadIF. -/
def Obligations.InterruptRegisterReadsReturnTheirByte : Prop :=
  ∀ (s : State) (sel : PageSel) (k : BitVec 2), sel = s.cfg.irqPage →
    (BusEncodes s.cfg.texOffset (0x2210 + k.setWidth 14) (fun sel _ => .rd8Enable sel k) ∧
      exec (.rd8Enable sel k) s =
        .next { s with
          result := .byte ((s.blk.IE.setWidth 32).extractLsb' (8 * k.toNat) 8) }) ∧
    (BusEncodes s.cfg.texOffset (0x2208 + k.setWidth 14) (fun sel _ => .rd8MasterEnable sel k) ∧
      exec (.rd8MasterEnable sel k) s =
        .next { s with
          result := .byte ((s.blk.IME.setWidth 32).extractLsb' (8 * k.toNat) 8) }) ∧
    (BusEncodes s.cfg.texOffset (0x2214 + k.setWidth 14) (fun sel _ => .rd8Request sel k) ∧
      exec (.rd8Request sel k) s =
        .next { s with
          result := .byte ((s.blk.IF.setWidth 32).extractLsb' (8 * k.toNat) 8) })

/-- R291: WriteIE; the new value, zero-extended, is the rule's 32-bit expression. -/
def Obligations.WriteEnableReplacesItsByteMasked : Prop :=
  ∀ (s : State) (sel : PageSel) (k : BitVec 2) (v : Byte), sel = s.cfg.irqPage →
    BusEncodes s.cfg.texOffset (0x3210 + k.setWidth 14) (fun sel v => .wr8Enable sel k v) ∧
    ∃ ie : BitVec 14,
      exec (.wr8Enable sel k v) s =
        .next { s with result := .done, blk := { s.blk with IE := ie } } ∧
      ie.setWidth 32 =
        ((s.blk.IE.setWidth 32 &&& ~~~((0x000000FF : Word) <<< (8 * k.toNat)))
          ||| (v.setWidth 32 <<< (8 * k.toNat))) &&& 0x00003FFF

/-- R293: WriteIME; the new value, zero-extended, is the rule's 32-bit expression. -/
def Obligations.WriteMasterEnableKeepsBitZero : Prop :=
  ∀ (s : State) (sel : PageSel) (k : BitVec 2) (v : Byte), sel = s.cfg.irqPage →
    BusEncodes s.cfg.texOffset (0x3208 + k.setWidth 14) (fun sel v => .wr8MasterEnable sel k v) ∧
    ∃ ime : BitVec 1,
      exec (.wr8MasterEnable sel k v) s =
        .next { s with result := .done, blk := { s.blk with IME := ime } } ∧
      ime.setWidth 32 =
        ((s.blk.IME.setWidth 32 &&& ~~~((0x000000FF : Word) <<< (8 * k.toNat)))
          ||| (v.setWidth 32 <<< (8 * k.toNat))) &&& 0x00000001

/-- R295: WriteIF clears exactly the Request bits at which the written byte has a 1. -/
def Obligations.WriteRequestClearsOnOnes : Prop :=
  ∀ (s : State) (sel : PageSel) (k : BitVec 2) (v : Byte), sel = s.cfg.irqPage →
    BusEncodes s.cfg.texOffset (0x3214 + k.setWidth 14) (fun sel v => .wr8Request sel k v) ∧
    ∃ ifr : BitVec 14,
      exec (.wr8Request sel k v) s =
        .next { s with result := .done, blk := { s.blk with IF := ifr } } ∧
      ∀ j : Nat, j < 14 →
        ifr.getLsbD j =
          (s.blk.IF.getLsbD j && !(decide (j / 8 = k.toNat) && v.getLsbD (j % 8)))

/-- R297: RAISE sets its source's Request bit whatever IE and IME hold; a source above 13 is refused
(R323; that a refusal is a next state is the model's reading of log 5). -/
def Obligations.RaiseSetsItsRequestBit : Prop :=
  ∀ (s : State) (src : Byte),
    decode s.cfg.texOffset (.port 0x03 src) = .ok (.raise src) ∧
    (src.toNat ≤ 13 →
      ∃ ifr : BitVec 14,
        exec (.raise src) s = .next { s with result := .done, blk := { s.blk with IF := ifr } } ∧
        ∀ j : Nat, j < 14 → ifr.getLsbD j = (s.blk.IF.getLsbD j || decide (j = src.toNat))) ∧
    (13 < src.toNat →
      exec (.raise src) s =
        .next { s with
          result := .refused (.source src)
          blk := { s.blk with refused := true } })

/-- R298: POLL returns the predicate and changes no field of `S`. That a nonzero operand decodes like R120's
0 is the model's choice (log 16). -/
def Obligations.PollReturnsThePredicate : Prop :=
  ∀ (s : State) (operand : Byte),
    decode s.cfg.texOffset (.port 0x05 operand) = .ok .poll ∧
    ∃ p : Bool, exec .poll s = .next { s with result := .flag p } ∧
      (p = true ↔
        s.blk.IME = 1 ∧ ∃ j, j < 14 ∧ s.blk.IF.getLsbD j = true ∧ s.blk.IE.getLsbD j = true)

/-- R296: no access routed to the IRQ page, no RAISE and no POLL changes a field of the register bank,
GXSTAT, the queue, the matrix engine or the bridge. That an access on the wrong page (R86) and a RAISE above
13 (R323) have a next state, with the fault or the refusal recorded, is the model's reading of log 5. -/
def Obligations.InterruptControllerLeavesGeometryAlone : Prop :=
  ∀ (s : State) (i : Instr),
    ((∃ addr v, busAccess i = some (.irq, addr, v)) ∨ (∃ src, i = .raise src) ∨ i = .poll) →
      ∃ t, exec i s = .next t ∧
        t.blk = { s.blk with
          IE := t.blk.IE, IME := t.blk.IME, IF := t.blk.IF
          fault := t.blk.fault, refused := t.blk.refused, diag := t.blk.diag } ∧
        t.cfg = s.cfg ∧ t.inputs = s.inputs ∧ t.rendered = s.rendered ∧ t.draw = s.draw ∧
        t.overrun = s.overrun

/-- The geometry side never reads IE, IME or IF (R268 "Deliver reads neither `S.IE`, nor `S.IME`",
R296): two runs of one operation that differ only in those registers agree on all the rest of `S`. -/
def Obligations.GeometryIgnoresInterruptRegisters : Prop :=
  ∀ (s t : State) (i : Instr) (ie : BitVec 14) (ime : BitVec 1) (ifr : BitVec 14),
    exec i s = .next t →
      ∃ t', exec i { s with blk := withIrqRegs ie ime ifr s.blk } = .next t' ∧
        withIrqRegs 0 0 0 t'.blk = withIrqRegs 0 0 0 t.blk ∧
        t'.rendered = t.rendered ∧ t'.cfg = t.cfg ∧ t'.inputs = t.inputs ∧ t'.draw = t.draw ∧
        t'.overrun = t.overrun

/-! ### The GXSTAT bridge -/

/-- R267, R268: TICK. That a nonzero operand decodes like R120's 0 is the model's choice (log 16). -/
def Obligations.TickDecrementsAndDelivers : Prop :=
  ∀ (s : State) (operand : Byte),
    decode s.cfg.texOffset (.port 0x02 operand) = .ok .tick ∧
    exec .tick s =
      .next { s with
        result := .done
        blk := { s.blk with
          pending := (s.blk.pending.filter fun p => decide (p > 1)).map fun p => p - 1
          IF :=
            if ∃ p ∈ s.blk.pending, p ≤ 1 then s.blk.IF ||| ((1 : BitVec 14) <<< s.cfg.gxIrqSource.val)
            else s.blk.IF } }

/-- A delivery with `d` ticks left is made by the `d`-th TICK, and when every delivery has at least `d`
ticks left no earlier TICK changes Request (R267's own inference from R266 and R267). -/
def Obligations.DeliveryIsMadeByTheDthTick : Prop :=
  ∀ (s : State) (d : Nat), 1 ≤ d → d ∈ s.blk.pending →
    (∃ t, execAll (List.replicate d .tick) s = .next t ∧
      t.blk.IF.getLsbD s.cfg.gxIrqSource.val = true) ∧
    ((∀ p ∈ s.blk.pending, d ≤ p) → ∀ n, n < d →
      ∃ t, execAll (List.replicate n .tick) s = .next t ∧ t.blk.IF = s.blk.IF)

/-- R269: no operation but TICK and RESET takes anything out of `pending`. -/
def Obligations.DeliveriesAreNeverCancelled : Prop :=
  ∀ (s t : State) (i : Instr), exec i s = .next t → i ≠ .tick → i ≠ .reset →
    s.blk.pending <+: t.blk.pending

/-- R356, R264: an operation schedules at most one delivery, of `GX_IRQ_DELAY` ticks, and only when the
condition was false at the last recomputation and is true now. -/
def Obligations.SchedulingIsEdgeTriggered : Prop :=
  ∀ (s t : State) (i : Instr), exec i s = .next t → i ≠ .tick → i ≠ .reset →
    t.blk.pending = s.blk.pending ∨
    (t.blk.pending = s.blk.pending ++ [s.cfg.gxIrqDelay] ∧ s.blk.prevCond = false ∧
      t.blk.prevCond = true ∧ t.blk.cond = true)

/-- R263: the trigger condition of each mode, over the two buffers (R260, R261). -/
def Obligations.TriggerConditionFollowsTheMode : Prop :=
  ∀ b : Blk,
    (b.irqMode = 0 → b.cond = false) ∧
    (b.irqMode = 1 → (b.cond = true ↔ b.queue.length ≤ 128)) ∧
    (b.irqMode = 2 → (b.cond = true ↔ b.queue = [] ∧ b.pipe = [])) ∧
    (b.irqMode = 3 → b.cond = false)

/-- Request bits are set only by RAISE and by a TICK's delivery, and cleared only by a Request write
and by RESET (R47, R295, R297, R268). So a condition that becomes true never sets its bit in the same
step (R353). -/
def Obligations.RequestBitsHaveTheirOnlyWriters : Prop :=
  ∀ (s t : State) (i : Instr) (j : Nat), exec i s = .next t →
    (s.blk.IF.getLsbD j = false → t.blk.IF.getLsbD j = true →
      (∃ src : Byte, i = .raise src ∧ src.toNat = j) ∨ (i = .tick ∧ s.cfg.gxIrqSource.val = j)) ∧
    (s.blk.IF.getLsbD j = true → t.blk.IF.getLsbD j = false →
      (∃ sel off v, busAccess i = some (.irq, addrOf sel off, some v) ∧
        0x214 ≤ off.toNat ∧ off.toNat ≤ 0x217) ∨ i = .reset)

/-- R270, R28: TESTSET, and no command and no bus write changes the test flags: beside TESTSET only RESET
does. -/
def Obligations.TestsetWritesTheTestFlags : Prop :=
  (∀ (s : State) (v : Byte),
    decode s.cfg.texOffset (.port 0x04 v) = .ok (.testset v) ∧
    exec (.testset v) s =
      .next { s with result := .done, blk := { s.blk with test := v.extractLsb' 0 2 } }) ∧
  ∀ (s t : State) (i : Instr), exec i s = .next t → t.blk.test ≠ s.blk.test →
    (∃ v, i = .testset v) ∨ i = .reset

/-! ### The command queue -/

/-- R180, R181: Enqueue of every entry that Check accepts; and R354, in the model of the system (log 14):
with no room the bus agent's turn passes and its entry waits, with room it is enqueued, EXEC makes room,
and no entry is lost. That an entry Check refuses has a next state is the model's reading of log 5; that an
EXEC turn with a nonzero operand decodes like R120's 0 is its choice (log 16). -/
def Obligations.EnqueueFillsThePipeThenTheQueue : Prop :=
  (∀ (s : State) (i : Instr) (e : Entry), Accepts i e →
    decode s.cfg.texOffset (.cmd e) = .ok i ∧
    (s.blk.pipe.length < 4 →
      exec i s =
        .next { s with
          result := .accepted
          blk := recomputed s.cfg.gxIrqDelay { s.blk with pipe := s.blk.pipe ++ [e] } }) ∧
    (4 ≤ s.blk.pipe.length → s.blk.queue.length < 256 →
      exec i s =
        .next { s with
          result := .accepted
          blk := recomputed s.cfg.gxIrqDelay { s.blk with queue := s.blk.queue ++ [e] } }) ∧
    (4 ≤ s.blk.pipe.length → 256 ≤ s.blk.queue.length →
      exec i s = .next { s with result := .full, overrun := true })) ∧
  (∀ (y : System) (e : Entry) (program : List RawOp) (turns : List Turn),
    y.program = .cmd e :: program → y.turns = .bus :: turns →
      (4 ≤ y.core.blk.pipe.length → 256 ≤ y.core.blk.queue.length →
        y.step = .next { y with turns := turns }) ∧
      (y.core.blk.pipe.length < 4 ∨ y.core.blk.queue.length < 256 →
        ∃ i t, decode y.core.cfg.texOffset (.cmd e) = .ok i ∧ exec i y.core = .next t ∧
          t.result ≠ .full ∧ y.step = .next ⟨t, program, turns⟩)) ∧
  (∀ (y z : System) (operand : Byte) (turns : List Turn), Inv y.core →
    y.turns = .port 0x01 operand :: turns → y.step = .next z →
      z.program = y.program ∧ (z.core.blk.pipe.length < 4 ∨ z.core.blk.queue.length < 256)) ∧
  (∀ y z : System, y.step = .next z → z.core.overrun = y.core.overrun)

/-- R323: every refusal sets `S.refused` and changes nothing else; a refused entry is refused even when
the buffers are full (R182). That a refusal is a next state is the model's reading of log 5. The model's
choices: the configure operation (log 7), and that the operand of a refused code is ignored (log 16). -/
def Obligations.RefusalsOnlySetTheMark : Prop :=
  ∀ s : State,
    (∀ (i : Instr) (ps : List Word) (t : Byte),
      (i, t) ∈ [(Instr.refusedTag17 ps, 0x17), (.refusedTag19 ps, 0x19), (.refusedTag1A ps, 0x1A),
        (.refusedTag1B ps, 0x1B), (.refusedTag1C ps, 0x1C)] →
      decode s.cfg.texOffset (.cmd ⟨t, ps⟩) = .ok i ∧
      exec i s =
        .next { s with result := .refused (.tag t), blk := { s.blk with refused := true } }) ∧
    (∀ (i : Instr) (ps : List Word) (t : Byte) (n : Nat),
      (i, t, n) ∈ [(Instr.setMode ps, 0x10, 1), (.push ps, 0x11, 0), (.pop ps, 0x12, 1),
        (.storeToStack ps, 0x13, 1), (.restoreFromStack ps, 0x14, 1), (.loadIdentity ps, 0x15, 0),
        (.loadMatrix ps, 0x16, 16), (.multiply ps, 0x18, 16)] →
      ps.length ≠ n →
      decode s.cfg.texOffset (.cmd ⟨t, ps⟩) = .ok i ∧
      exec i s =
        .next { s with
          result := .refused (.arity t ps.length)
          blk := { s.blk with refused := true } }) ∧
    (∀ src : Byte, 13 < src.toNat →
      exec (.raise src) s =
        .next { s with
          result := .refused (.source src)
          blk := { s.blk with refused := true } }) ∧
    (∀ c operand : Byte, c.toNat = 0 ∨ 7 ≤ c.toNat →
      decode s.cfg.texOffset (.port c operand) = .ok (.refusedPort c) ∧
      exec (.refusedPort c) s =
        .next { s with result := .refused (.port c), blk := { s.blk with refused := true } }) ∧
    (∀ t : Offset,
      (t.toNat % 4 ≠ 0 ∨ (0x350 ≤ t.toNat + 3 ∧ t.toNat ≤ 0x355) ∨
        (0x600 ≤ t.toNat + 3 ∧ t.toNat ≤ 0x603)) →
      s.configure (some t) =
        { s with result := .refused .config, blk := { s.blk with refused := true } })

/-- R184: under the invariant, EXEC has a step exactly when the pipe holds an entry and no fault is
recorded; otherwise the machine is stuck on it (log 8). That a Pop which raises StackIndexFault has a next
state is the model's reading of log 5, and that a nonzero operand decodes like R120's 0 is its choice
(log 16). -/
def Obligations.ExecStepsExactlyWhenEnabled : Prop :=
  ∀ (s : State) (operand : Byte), Inv s →
    decode s.cfg.texOffset (.port 0x01 operand) = .ok .exec ∧
    (s.blk.pipe ≠ [] → s.blk.fault = none → ∃ t, exec .exec s = .next t) ∧
    (s.blk.pipe = [] ∨ s.blk.fault ≠ none → exec .exec s = .fault .execNotEnabled)

/-- R186: an Opaque entry is forwarded unchanged to the rendering engine; beyond the removal, the refill
and Recompute, no field of `S` changes. -/
def Obligations.OpaqueEntryIsForwarded : Prop :=
  ∀ (s : State) (tag : Byte) (ps : List Word) (rest : List Entry),
    isOpaqueTag tag = true → s.blk.fault = none → s.blk.pipe = ⟨tag, ps⟩ :: rest →
      exec .exec s =
        .next { executed s (afterRefill rest s.blk) with rendered := s.rendered ++ [⟨tag, ps⟩] }

/-- R187 (the spec's inference from R180 and R183): the two buffers together are one FIFO of at most 260
entries. An accepted entry goes to its end, EXEC takes its head, with or without a fault, and no operation
of a BUS or PORT row but EXEC and RESET touches it (RefusalsOnlySetTheMark has the refused CMD rows). -/
def Obligations.BuffersAreOneFifo : Prop :=
  ∀ s : State, Inv s →
    (∀ (i : Instr) (e : Entry), Accepts i e →
      ∃ t, exec i s = .next t ∧
        ((s.blk.held.length < 260 ∧ t.result = .accepted ∧ t.blk.held = s.blk.held ++ [e]) ∨
          (s.blk.held.length = 260 ∧ t.result = .full ∧ t.blk = s.blk))) ∧
    (∀ t, exec .exec s = .next t → ∃ e, s.blk.held = e :: t.blk.held) ∧
    (∀ (i : Instr) (t : State), cmdEntry i = none → i ≠ .exec → i ≠ .reset → exec i s = .next t →
      t.blk.held = s.blk.held)

/-- R188: the COUNT field of GXSTAT is the number of accepted and not yet executed entries, and every
operation moves it as the rule says. -/
def Obligations.CountFollowsEnqueueAndExec : Prop :=
  ∀ (s t : State) (i : Instr), Inv s → exec i s = .next t →
    (t.blk.gxstatValue.extractLsb' 16 9).toNat = t.blk.held.length ∧
    (i = .exec → t.blk.held.length + 1 = s.blk.held.length) ∧
    (t.result = .accepted → t.blk.held.length = s.blk.held.length + 1) ∧
    (i ≠ .exec → i ≠ .reset → t.result ≠ .accepted → t.blk.held.length = s.blk.held.length)

/-- R91: no operation alters, reorders or inserts before an entry that is held: after any operation but
RESET the held entries that remain come first, in their order, and EXEC alone removes one. -/
def Obligations.HeldEntriesAreSnapshots : Prop :=
  ∀ (s t : State) (i : Instr), Inv s → exec i s = .next t → i ≠ .reset →
    (i ≠ .exec → s.blk.held <+: t.blk.held) ∧ (i = .exec → t.blk.held = s.blk.held.tail)

/-- An enqueued matrix command takes its own effect at its execution: from a state that holds no entry,
the CMD operation and one EXEC give what the command makes of `S` (R180, R183, R185). -/
def Obligations.EnqueuedCommandTakesEffectAtExec : Prop :=
  ∀ (s : State) (i : Instr) (e : Entry) (c : Command) (b : Blk), Accepts i e →
    e.command = some c → s.blk.held = [] → s.blk.fault = none →
    applyCommand s.cfg.mulOrder c s.blk = .ok b →
      ∃ t, execAll [i, .exec] s = .next t ∧
        t.blk.mode = b.mode ∧ t.blk.P = b.P ∧ t.blk.Pos = b.Pos ∧ t.blk.Vec = b.Vec ∧
        t.blk.T = b.T ∧ t.blk.projStack = b.projStack ∧ t.blk.posStack = b.posStack ∧
        t.blk.vecStack = b.vecStack ∧ t.blk.texStack = b.texStack ∧ t.blk.spProj = b.spProj ∧
        t.blk.spPv = b.spPv ∧ t.blk.spTex = b.spTex ∧ t.blk.overflow = b.overflow ∧
        t.blk.underflow = b.underflow ∧ t.blk.held = [] ∧
        t.rendered = s.rendered ++ c.emitted

/-! ### The matrix engine -/

/-- R213: SetMode. -/
def Obligations.SetModeSelectsTheMode : Prop :=
  ∀ (s : State) (p : Word) (rest : List Entry),
    s.blk.fault = none → s.blk.pipe = ⟨0x10, [p]⟩ :: rest →
      ∃ m : Mode, m.toBits = p.extractLsb' 0 2 ∧
        exec .exec s = .next (executed s { afterRefill rest s.blk with mode := m })

/-- R214: LoadIdentity, with `I` of R211. -/
def Obligations.LoadIdentityWritesItsTargets : Prop :=
  ∀ (s : State) (rest : List Entry),
    s.blk.fault = none → s.blk.pipe = ⟨0x15, []⟩ :: rest →
      ∃ I : Matrix, (∀ i j : Fin 4, I[i][j] = if i = j then 0x1000 else 0) ∧
        exec .exec s = .next (executed s (ByMode.onTargets (fun _ => I) (afterRefill rest s.blk)))

/-- R215: LoadMatrix, with the operand of R117. -/
def Obligations.LoadMatrixWritesItsTargets : Prop :=
  ∀ (s : State) (ps : List Word) (rest : List Entry), ps.length = 16 →
    s.blk.fault = none → s.blk.pipe = ⟨0x16, ps⟩ :: rest →
      ∃ O : Matrix, (∀ i j : Fin 4, ps[4 * i.val + j.val]? = some O[i][j]) ∧
        exec .exec s = .next (executed s (ByMode.onTargets (fun _ => O) (afterRefill rest s.blk)))

/-- R216: Multiply, in either operand order, with the operand of R117 and the product of R210. -/
def Obligations.MultiplyCombinesItsTargets : Prop :=
  ∀ (s : State) (ps : List Word) (rest : List Entry), ps.length = 16 →
    s.blk.fault = none → s.blk.pipe = ⟨0x18, ps⟩ :: rest →
      ∃ O : Matrix, (∀ i j : Fin 4, ps[4 * i.val + j.val]? = some O[i][j]) ∧
        (s.cfg.mulOrder = .left →
          exec .exec s =
            .next (executed s (ByMode.onTargets (fun C => matMul O C) (afterRefill rest s.blk)))) ∧
        (s.cfg.mulOrder = .right →
          exec .exec s =
            .next (executed s (ByMode.onTargets (fun C => matMul C O) (afterRefill rest s.blk))))

/-- R210, for an exact sum below 2^63 in magnitude (93_implementation_defined.md I13 leaves a larger one
open, log 12): the floor of the sum over 2^12, wrapped to 32 signed bits. -/
def Obligations.ProductElementIsFlooredAndWrapped : Prop :=
  ∀ (A B : Matrix) (i j : Fin 4) (n : Int),
    n = (∑ k : Fin 4, A[i][k].toInt * B[k][j].toInt) → -2 ^ 63 < n → n < 2 ^ 63 →
      (-2 ^ 31 ≤ ((matMul A B)[i][j]).toInt ∧ ((matMul A B)[i][j]).toInt < 2 ^ 31) ∧
      ((matMul A B)[i][j]).toInt ≡ n / 4096 [ZMOD 2 ^ 32]

/-- R211 (the spec's inference): the identity is neutral on both sides, on every matrix. -/
def Obligations.IdentityIsNeutral : Prop :=
  ∀ X : Matrix, matMul identity X = X ∧ matMul X identity = X

/-- R218: Push. -/
def Obligations.PushSavesOrOverflows : Prop :=
  ∀ (s : State) (rest : List Entry),
    s.blk.fault = none → s.blk.pipe = ⟨0x11, []⟩ :: rest →
      exec .exec s = .next (executed s (ByMode.push (afterRefill rest s.blk)))

/-- R219: Pop, its three cases, Recompute after each (R265, log 6). In a reachable state the third needs
`n = 0` at `sp = cap` (R44). That the fault is a next state is log 5. -/
def Obligations.PopRestoresUnderflowsOrFaults : Prop :=
  ∀ (s : State) (p : Word) (rest : List Entry) (n sp : Nat) (b : Blk),
    s.blk.fault = none → s.blk.pipe = ⟨0x12, [p]⟩ :: rest →
    n = (p.extractLsb' 0 6).toNat → sp = ByMode.pointer s.blk → b = afterRefill rest s.blk →
      (sp < n →
        exec .exec s =
          .next (executed s (ByMode.withPointer 0 { b with underflow := true }))) ∧
      (n ≤ sp → sp - n < ByMode.capacity s.blk.mode →
        ∃ b', ByMode.Restores (sp - n) (ByMode.withPointer (sp - n) b) b' ∧
          exec .exec s = .next (executed s b')) ∧
      (n ≤ sp → ByMode.capacity s.blk.mode ≤ sp - n →
        exec .exec s =
          .next { s with
            result := .raised (.stackIndex s.blk.mode (sp - n))
            blk := { recomputed s.cfg.gxIrqDelay (ByMode.withPointer (sp - n) b) with
              fault := some (.stackIndex s.blk.mode (sp - n)) } })

/-- R220: StoreToStack. -/
def Obligations.StoreToStackStoresOrOverflows : Prop :=
  ∀ (s : State) (p : Word) (rest : List Entry),
    s.blk.fault = none → s.blk.pipe = ⟨0x13, [p]⟩ :: rest →
      exec .exec s =
        .next (executed s (ByMode.store (p.extractLsb' 0 5).toNat (afterRefill rest s.blk)))

/-- R221: RestoreFromStack. -/
def Obligations.RestoreFromStackRestoresOrOverflows : Prop :=
  ∀ (s : State) (p : Word) (rest : List Entry) (slot : Nat) (b : Blk),
    s.blk.fault = none → s.blk.pipe = ⟨0x14, [p]⟩ :: rest →
    slot = (p.extractLsb' 0 5).toNat → b = afterRefill rest s.blk →
      (ByMode.capacity s.blk.mode ≤ slot →
        exec .exec s = .next (executed s { b with overflow := true })) ∧
      (slot < ByMode.capacity s.blk.mode →
        ∃ b', ByMode.Restores slot b b' ∧ exec .exec s = .next (executed s b'))

/-- A Push below capacity followed by `Pop 1` gives back the current matrices and the pointer
(R218, R219), whatever a command made of the current matrices in between. -/
def Obligations.PopUndoesPush : Prop :=
  ∀ (b : Blk) (f : Matrix → Matrix), ByMode.pointer b < ByMode.capacity b.mode →
    ∃ b', applyPop 1 (ByMode.onTargets f (applyPush b)) = .ok b' ∧
      b'.P = b.P ∧ b'.Pos = b.Pos ∧ b'.Vec = b.Vec ∧ b'.T = b.T ∧
      ByMode.pointer b' = ByMode.pointer b ∧ b'.overflow = b.overflow ∧ b'.underflow = b.underflow

/-- R29, R30, R217: the sticky flags are set only in an execution step, and cleared only by a GXSTAT
write with a 1 at the flag's place and by RESET. -/
def Obligations.StickyFlagsHaveTheirOnlyWriters : Prop :=
  ∀ (s t : State) (i : Instr), exec i s = .next t →
    (s.blk.overflow = false → t.blk.overflow = true → i = .exec) ∧
    (s.blk.underflow = false → t.blk.underflow = true → i = .exec) ∧
    (s.blk.overflow = true → t.blk.overflow = false →
      i = .reset ∨ ∃ sel off v, busAccess i = some (.gx, addrOf sel off, some v) ∧
        off = 0x601 ∧ v.getLsbD 7 = true) ∧
    (s.blk.underflow = true → t.blk.underflow = false →
      i = .reset ∨ ∃ sel off v, busAccess i = some (.gx, addrOf sel off, some v) ∧
        off = 0x601 ∧ v.getLsbD 6 = true)

/-- R355, R40: the mode, the current matrices, the stacks and their pointers change only in an execution
step and by RESET. -/
def Obligations.MatrixEngineChangesOnlyAtExec : Prop :=
  ∀ (s t : State) (i : Instr), exec i s = .next t → i ≠ .exec → i ≠ .reset →
    t.blk.mode = s.blk.mode ∧ t.blk.P = s.blk.P ∧ t.blk.Pos = s.blk.Pos ∧ t.blk.Vec = s.blk.Vec ∧
    t.blk.T = s.blk.T ∧ t.blk.projStack = s.blk.projStack ∧ t.blk.posStack = s.blk.posStack ∧
    t.blk.vecStack = s.blk.vecStack ∧ t.blk.texStack = s.blk.texStack ∧
    t.blk.spProj = s.blk.spProj ∧ t.blk.spPv = s.blk.spPv ∧ t.blk.spTex = s.blk.spTex

/-! ### Reset, bookkeeping and invariants -/

/-- R350: RESET puts every architectural field at R54's value, keeps the bookkeeping, and leaves GXSTAT
reading 0 and the interrupt output false. The drawn fields are not constrained. The model's choices: a
nonzero operand decodes like R120's 0 (log 16), `rendered` is kept (log 4), `overrun` is kept (log 14). -/
def Obligations.ResetEstablishesTheResetTable : Prop :=
  ∀ (s : State) (operand : Byte),
    decode s.cfg.texOffset (.port 0x06 operand) = .ok .reset ∧
    ∃ t, exec .reset s = .next t ∧
      t.blk.test = 0 ∧ t.blk.underflow = false ∧ t.blk.overflow = false ∧ t.blk.irqMode = 0 ∧
      t.blk.queue = [] ∧ t.blk.pipe = [] ∧ t.blk.mode.toBits = 0 ∧
      t.blk.spProj = 0 ∧ t.blk.spPv = 0 ∧ t.blk.spTex = 0 ∧
      t.blk.IE = 0 ∧ t.blk.IME = 0 ∧ t.blk.IF = 0 ∧ t.blk.prevCond = false ∧ t.blk.pending = [] ∧
      t.blk.fault = s.blk.fault ∧ t.blk.refused = s.blk.refused ∧ t.blk.diag = s.blk.diag ∧
      t.cfg = s.cfg ∧ t.inputs = s.inputs ∧ t.rendered = s.rendered ∧ t.overrun = s.overrun ∧
      t.blk.interruptsRequested = false ∧ t.blk.gxstatValue = 0

/-- R351: a run starts in the state RESET produces, with no fault, no refusal and no diagnostic; the
parameters there are legal (their values are log 3's choice). The last clause rests on the model's choice of log 2: a draw is a function of
its number, and the reset state is draw number 0, which no later RESET uses. -/
def Obligations.RunsStartInTheResetState : Prop :=
  State.reset.blk.fault = none ∧ State.reset.blk.refused = false ∧ State.reset.blk.diag = [] ∧
  paramsLegal State.reset.cfg = true ∧
  ∀ s : State, s.draw = 0 → s.blk.fault = none → s.blk.refused = false → s.blk.diag = [] →
    ∃ t, exec .reset s = .next t ∧ t.blk = State.reset.blk

/-- R51, R10: no operation clears a recorded fault or the refusal mark, the first fault stays the one
recorded, and the diagnostic log only grows; that an operation which raises or is refused has a next state
is the model's reading of log 5. The mark `overrun` (log 14) is kept likewise, and set exactly
by an operation that answers Full. -/
def Obligations.FaultAndRefusalMarksAreSticky : Prop :=
  ∀ (s t : State) (i : Instr), exec i s = .next t →
    (∀ f, s.blk.fault = some f → t.blk.fault = some f) ∧
    (s.blk.refused = true → t.blk.refused = true) ∧
    s.blk.diag <+: t.blk.diag ∧
    (∀ f, t.result = .raised f → s.blk.fault = none → t.blk.fault = some f) ∧
    (∀ r, t.result = .refused r → t.blk.refused = true) ∧
    (t.overrun = true ↔ s.overrun = true ∨ t.result = .full)

/-- R52: no rule reads `S.diag`; dropping it changes no other field. -/
def Obligations.DiagnosticsAreNeverRead : Prop :=
  ∀ (s t : State) (i : Instr) (d : List DiagEvent), exec i s = .next t →
    ∃ t', exec i { s with blk := { s.blk with diag := d } } = .next t' ∧
      { t' with blk := { t'.blk with diag := [] } } = { t with blk := { t.blk with diag := [] } }

/-- Every operation but EXEC has a next state in every state: R329 leaves each enabled, and that one which
raises a fault or is refused goes to a next state is the model's reading of log 5. No operation changes
the parameters (R7, log 3). -/
def Obligations.EveryOperationButExecAlwaysSteps : Prop :=
  (∀ (s : State) (i : Instr), i ≠ .exec → ∃ t, exec i s = .next t) ∧
  (∀ (s t : State) (i : Instr), exec i s = .next t → t.cfg = s.cfg)

/-- The invariant of the block (R38, R44, R265 and Safety.lean) holds right after reset. That the parameters are legal there is log 3's choice. -/
def Obligations.ResetStateMeetsTheInvariant : Prop := Inv State.reset

/-- Every step keeps the invariant of the block, from every state that meets it. That `prev_cond` is `cond`
after a faulting Pop too rests on the model's reading of log 6. -/
def Obligations.StepKeepsTheInvariant : Prop :=
  ∀ s t : State, Inv s → step s = .next t → Inv t
end

