-- ==== Sys2Proof/Laws/State.lean ====
section
/-! SUPPORT. One lemma per field per named update of the state, each by definition, so that no later proof
unfolds a record update. -/

namespace Sys2Proof.Machine

/-! ### Updates of `State` -/

section
variable (s : State) (b : Blk) (r : Result) (f : ModelFault) (k : RefuseKind)

@[simp] theorem State.ok_blk : (s.ok b r).blk = b := rfl
@[simp] theorem State.ok_cfg : (s.ok b r).cfg = s.cfg := rfl
@[simp] theorem State.ok_inputs : (s.ok b r).inputs = s.inputs := rfl
@[simp] theorem State.ok_result : (s.ok b r).result = r := rfl
@[simp] theorem State.ok_rendered : (s.ok b r).rendered = s.rendered := rfl
@[simp] theorem State.ok_draw : (s.ok b r).draw = s.draw := rfl
@[simp] theorem State.ok_overrun : (s.ok b r).overrun = s.overrun := rfl
@[simp] theorem State.raiseFault_blk : (s.raiseFault f).blk = s.blk.recordFault f := rfl
@[simp] theorem State.raiseFault_cfg : (s.raiseFault f).cfg = s.cfg := rfl
@[simp] theorem State.raiseFault_inputs : (s.raiseFault f).inputs = s.inputs := rfl
@[simp] theorem State.raiseFault_result : (s.raiseFault f).result = .raised f := rfl
@[simp] theorem State.raiseFault_rendered : (s.raiseFault f).rendered = s.rendered := rfl
@[simp] theorem State.raiseFault_draw : (s.raiseFault f).draw = s.draw := rfl
@[simp] theorem State.raiseFault_overrun : (s.raiseFault f).overrun = s.overrun := rfl
@[simp] theorem State.refuse_blk : (s.refuse k).blk = { s.blk with refused := true } := rfl
@[simp] theorem State.refuse_cfg : (s.refuse k).cfg = s.cfg := rfl
@[simp] theorem State.refuse_inputs : (s.refuse k).inputs = s.inputs := rfl
@[simp] theorem State.refuse_result : (s.refuse k).result = .refused k := rfl
@[simp] theorem State.refuse_rendered : (s.refuse k).rendered = s.rendered := rfl
@[simp] theorem State.refuse_draw : (s.refuse k).draw = s.draw := rfl
@[simp] theorem State.refuse_overrun : (s.refuse k).overrun = s.overrun := rfl
@[simp] theorem State.answerFull_blk : s.answerFull.blk = s.blk := rfl
@[simp] theorem State.answerFull_cfg : s.answerFull.cfg = s.cfg := rfl
@[simp] theorem State.answerFull_inputs : s.answerFull.inputs = s.inputs := rfl
@[simp] theorem State.answerFull_result : s.answerFull.result = .full := rfl
@[simp] theorem State.answerFull_rendered : s.answerFull.rendered = s.rendered := rfl
@[simp] theorem State.answerFull_draw : s.answerFull.draw = s.draw := rfl
@[simp] theorem State.answerFull_overrun : s.answerFull.overrun = true := rfl

end

/-! ### Updates of `Blk` -/

section
variable (b : Blk)

/-! `schedule` -/

@[simp] theorem Blk.schedule_clearColor (d : Nat) : (b.schedule d).clearColor = b.clearColor := rfl
@[simp] theorem Blk.schedule_clearDepth (d : Nat) : (b.schedule d).clearDepth = b.clearDepth := rfl
@[simp] theorem Blk.schedule_texParams (d : Nat) : (b.schedule d).texParams = b.texParams := rfl
@[simp] theorem Blk.schedule_test (d : Nat) : (b.schedule d).test = b.test := rfl
@[simp] theorem Blk.schedule_underflow (d : Nat) : (b.schedule d).underflow = b.underflow := rfl
@[simp] theorem Blk.schedule_overflow (d : Nat) : (b.schedule d).overflow = b.overflow := rfl
@[simp] theorem Blk.schedule_irqMode (d : Nat) : (b.schedule d).irqMode = b.irqMode := rfl
@[simp] theorem Blk.schedule_queue (d : Nat) : (b.schedule d).queue = b.queue := rfl
@[simp] theorem Blk.schedule_pipe (d : Nat) : (b.schedule d).pipe = b.pipe := rfl
@[simp] theorem Blk.schedule_mode (d : Nat) : (b.schedule d).mode = b.mode := rfl
@[simp] theorem Blk.schedule_P (d : Nat) : (b.schedule d).P = b.P := rfl
@[simp] theorem Blk.schedule_Pos (d : Nat) : (b.schedule d).Pos = b.Pos := rfl
@[simp] theorem Blk.schedule_Vec (d : Nat) : (b.schedule d).Vec = b.Vec := rfl
@[simp] theorem Blk.schedule_T (d : Nat) : (b.schedule d).T = b.T := rfl
@[simp] theorem Blk.schedule_projStack (d : Nat) : (b.schedule d).projStack = b.projStack := rfl
@[simp] theorem Blk.schedule_posStack (d : Nat) : (b.schedule d).posStack = b.posStack := rfl
@[simp] theorem Blk.schedule_vecStack (d : Nat) : (b.schedule d).vecStack = b.vecStack := rfl
@[simp] theorem Blk.schedule_texStack (d : Nat) : (b.schedule d).texStack = b.texStack := rfl
@[simp] theorem Blk.schedule_spProj (d : Nat) : (b.schedule d).spProj = b.spProj := rfl
@[simp] theorem Blk.schedule_spPv (d : Nat) : (b.schedule d).spPv = b.spPv := rfl
@[simp] theorem Blk.schedule_spTex (d : Nat) : (b.schedule d).spTex = b.spTex := rfl
@[simp] theorem Blk.schedule_IE (d : Nat) : (b.schedule d).IE = b.IE := rfl
@[simp] theorem Blk.schedule_IME (d : Nat) : (b.schedule d).IME = b.IME := rfl
@[simp] theorem Blk.schedule_IF (d : Nat) : (b.schedule d).IF = b.IF := rfl
@[simp] theorem Blk.schedule_prevCond (d : Nat) : (b.schedule d).prevCond = b.prevCond := rfl
@[simp] theorem Blk.schedule_pending (d : Nat) : (b.schedule d).pending = b.pending ++ [d] := rfl
@[simp] theorem Blk.schedule_fault (d : Nat) : (b.schedule d).fault = b.fault := rfl
@[simp] theorem Blk.schedule_refused (d : Nat) : (b.schedule d).refused = b.refused := rfl
@[simp] theorem Blk.schedule_diag (d : Nat) : (b.schedule d).diag = b.diag := rfl

/-! `recompute` -/

@[simp] theorem Blk.recompute_clearColor (d : Nat) :
    (b.recompute d).clearColor = b.clearColor := by unfold Blk.recompute; split <;> rfl
@[simp] theorem Blk.recompute_clearDepth (d : Nat) :
    (b.recompute d).clearDepth = b.clearDepth := by unfold Blk.recompute; split <;> rfl
@[simp] theorem Blk.recompute_texParams (d : Nat) :
    (b.recompute d).texParams = b.texParams := by unfold Blk.recompute; split <;> rfl
@[simp] theorem Blk.recompute_test (d : Nat) :
    (b.recompute d).test = b.test := by unfold Blk.recompute; split <;> rfl
@[simp] theorem Blk.recompute_underflow (d : Nat) :
    (b.recompute d).underflow = b.underflow := by unfold Blk.recompute; split <;> rfl
@[simp] theorem Blk.recompute_overflow (d : Nat) :
    (b.recompute d).overflow = b.overflow := by unfold Blk.recompute; split <;> rfl
@[simp] theorem Blk.recompute_irqMode (d : Nat) :
    (b.recompute d).irqMode = b.irqMode := by unfold Blk.recompute; split <;> rfl
@[simp] theorem Blk.recompute_queue (d : Nat) :
    (b.recompute d).queue = b.queue := by unfold Blk.recompute; split <;> rfl
@[simp] theorem Blk.recompute_pipe (d : Nat) :
    (b.recompute d).pipe = b.pipe := by unfold Blk.recompute; split <;> rfl
@[simp] theorem Blk.recompute_mode (d : Nat) :
    (b.recompute d).mode = b.mode := by unfold Blk.recompute; split <;> rfl
@[simp] theorem Blk.recompute_P (d : Nat) :
    (b.recompute d).P = b.P := by unfold Blk.recompute; split <;> rfl
@[simp] theorem Blk.recompute_Pos (d : Nat) :
    (b.recompute d).Pos = b.Pos := by unfold Blk.recompute; split <;> rfl
@[simp] theorem Blk.recompute_Vec (d : Nat) :
    (b.recompute d).Vec = b.Vec := by unfold Blk.recompute; split <;> rfl
@[simp] theorem Blk.recompute_T (d : Nat) :
    (b.recompute d).T = b.T := by unfold Blk.recompute; split <;> rfl
@[simp] theorem Blk.recompute_projStack (d : Nat) :
    (b.recompute d).projStack = b.projStack := by unfold Blk.recompute; split <;> rfl
@[simp] theorem Blk.recompute_posStack (d : Nat) :
    (b.recompute d).posStack = b.posStack := by unfold Blk.recompute; split <;> rfl
@[simp] theorem Blk.recompute_vecStack (d : Nat) :
    (b.recompute d).vecStack = b.vecStack := by unfold Blk.recompute; split <;> rfl
@[simp] theorem Blk.recompute_texStack (d : Nat) :
    (b.recompute d).texStack = b.texStack := by unfold Blk.recompute; split <;> rfl
@[simp] theorem Blk.recompute_spProj (d : Nat) :
    (b.recompute d).spProj = b.spProj := by unfold Blk.recompute; split <;> rfl
@[simp] theorem Blk.recompute_spPv (d : Nat) :
    (b.recompute d).spPv = b.spPv := by unfold Blk.recompute; split <;> rfl
@[simp] theorem Blk.recompute_spTex (d : Nat) :
    (b.recompute d).spTex = b.spTex := by unfold Blk.recompute; split <;> rfl
@[simp] theorem Blk.recompute_IE (d : Nat) :
    (b.recompute d).IE = b.IE := by unfold Blk.recompute; split <;> rfl
@[simp] theorem Blk.recompute_IME (d : Nat) :
    (b.recompute d).IME = b.IME := by unfold Blk.recompute; split <;> rfl
@[simp] theorem Blk.recompute_IF (d : Nat) :
    (b.recompute d).IF = b.IF := by unfold Blk.recompute; split <;> rfl
@[simp] theorem Blk.recompute_prevCond (d : Nat) :
    (b.recompute d).prevCond = b.cond := by unfold Blk.recompute; split <;> rfl
@[simp] theorem Blk.recompute_pending (d : Nat) :
    (b.recompute d).pending = if b.cond && !b.prevCond then b.pending ++ [d] else b.pending :=
  by unfold Blk.recompute; split <;> rfl
@[simp] theorem Blk.recompute_fault (d : Nat) :
    (b.recompute d).fault = b.fault := by unfold Blk.recompute; split <;> rfl
@[simp] theorem Blk.recompute_refused (d : Nat) :
    (b.recompute d).refused = b.refused := by unfold Blk.recompute; split <;> rfl
@[simp] theorem Blk.recompute_diag (d : Nat) :
    (b.recompute d).diag = b.diag := by unfold Blk.recompute; split <;> rfl

/-! `deliver` -/

@[simp] theorem Blk.deliver_clearColor (i : Fin 14) : (b.deliver i).clearColor = b.clearColor := rfl
@[simp] theorem Blk.deliver_clearDepth (i : Fin 14) : (b.deliver i).clearDepth = b.clearDepth := rfl
@[simp] theorem Blk.deliver_texParams (i : Fin 14) : (b.deliver i).texParams = b.texParams := rfl
@[simp] theorem Blk.deliver_test (i : Fin 14) : (b.deliver i).test = b.test := rfl
@[simp] theorem Blk.deliver_underflow (i : Fin 14) : (b.deliver i).underflow = b.underflow := rfl
@[simp] theorem Blk.deliver_overflow (i : Fin 14) : (b.deliver i).overflow = b.overflow := rfl
@[simp] theorem Blk.deliver_irqMode (i : Fin 14) : (b.deliver i).irqMode = b.irqMode := rfl
@[simp] theorem Blk.deliver_queue (i : Fin 14) : (b.deliver i).queue = b.queue := rfl
@[simp] theorem Blk.deliver_pipe (i : Fin 14) : (b.deliver i).pipe = b.pipe := rfl
@[simp] theorem Blk.deliver_mode (i : Fin 14) : (b.deliver i).mode = b.mode := rfl
@[simp] theorem Blk.deliver_P (i : Fin 14) : (b.deliver i).P = b.P := rfl
@[simp] theorem Blk.deliver_Pos (i : Fin 14) : (b.deliver i).Pos = b.Pos := rfl
@[simp] theorem Blk.deliver_Vec (i : Fin 14) : (b.deliver i).Vec = b.Vec := rfl
@[simp] theorem Blk.deliver_T (i : Fin 14) : (b.deliver i).T = b.T := rfl
@[simp] theorem Blk.deliver_projStack (i : Fin 14) : (b.deliver i).projStack = b.projStack := rfl
@[simp] theorem Blk.deliver_posStack (i : Fin 14) : (b.deliver i).posStack = b.posStack := rfl
@[simp] theorem Blk.deliver_vecStack (i : Fin 14) : (b.deliver i).vecStack = b.vecStack := rfl
@[simp] theorem Blk.deliver_texStack (i : Fin 14) : (b.deliver i).texStack = b.texStack := rfl
@[simp] theorem Blk.deliver_spProj (i : Fin 14) : (b.deliver i).spProj = b.spProj := rfl
@[simp] theorem Blk.deliver_spPv (i : Fin 14) : (b.deliver i).spPv = b.spPv := rfl
@[simp] theorem Blk.deliver_spTex (i : Fin 14) : (b.deliver i).spTex = b.spTex := rfl
@[simp] theorem Blk.deliver_IE (i : Fin 14) : (b.deliver i).IE = b.IE := rfl
@[simp] theorem Blk.deliver_IME (i : Fin 14) : (b.deliver i).IME = b.IME := rfl
@[simp] theorem Blk.deliver_IF (i : Fin 14) :
    (b.deliver i).IF = b.IF ||| ((1 : BitVec 14) <<< i.val) := rfl
@[simp] theorem Blk.deliver_prevCond (i : Fin 14) : (b.deliver i).prevCond = b.prevCond := rfl
@[simp] theorem Blk.deliver_pending (i : Fin 14) : (b.deliver i).pending = b.pending := rfl
@[simp] theorem Blk.deliver_fault (i : Fin 14) : (b.deliver i).fault = b.fault := rfl
@[simp] theorem Blk.deliver_refused (i : Fin 14) : (b.deliver i).refused = b.refused := rfl
@[simp] theorem Blk.deliver_diag (i : Fin 14) : (b.deliver i).diag = b.diag := rfl

/-! `recordFault` -/

@[simp] theorem Blk.recordFault_clearColor (f : ModelFault) :
    (b.recordFault f).clearColor = b.clearColor := rfl
@[simp] theorem Blk.recordFault_clearDepth (f : ModelFault) :
    (b.recordFault f).clearDepth = b.clearDepth := rfl
@[simp] theorem Blk.recordFault_texParams (f : ModelFault) :
    (b.recordFault f).texParams = b.texParams := rfl
@[simp] theorem Blk.recordFault_test (f : ModelFault) : (b.recordFault f).test = b.test := rfl
@[simp] theorem Blk.recordFault_underflow (f : ModelFault) :
    (b.recordFault f).underflow = b.underflow := rfl
@[simp] theorem Blk.recordFault_overflow (f : ModelFault) :
    (b.recordFault f).overflow = b.overflow := rfl
@[simp] theorem Blk.recordFault_irqMode (f : ModelFault) :
    (b.recordFault f).irqMode = b.irqMode := rfl
@[simp] theorem Blk.recordFault_queue (f : ModelFault) : (b.recordFault f).queue = b.queue := rfl
@[simp] theorem Blk.recordFault_pipe (f : ModelFault) : (b.recordFault f).pipe = b.pipe := rfl
@[simp] theorem Blk.recordFault_mode (f : ModelFault) : (b.recordFault f).mode = b.mode := rfl
@[simp] theorem Blk.recordFault_P (f : ModelFault) : (b.recordFault f).P = b.P := rfl
@[simp] theorem Blk.recordFault_Pos (f : ModelFault) : (b.recordFault f).Pos = b.Pos := rfl
@[simp] theorem Blk.recordFault_Vec (f : ModelFault) : (b.recordFault f).Vec = b.Vec := rfl
@[simp] theorem Blk.recordFault_T (f : ModelFault) : (b.recordFault f).T = b.T := rfl
@[simp] theorem Blk.recordFault_projStack (f : ModelFault) :
    (b.recordFault f).projStack = b.projStack := rfl
@[simp] theorem Blk.recordFault_posStack (f : ModelFault) :
    (b.recordFault f).posStack = b.posStack := rfl
@[simp] theorem Blk.recordFault_vecStack (f : ModelFault) :
    (b.recordFault f).vecStack = b.vecStack := rfl
@[simp] theorem Blk.recordFault_texStack (f : ModelFault) :
    (b.recordFault f).texStack = b.texStack := rfl
@[simp] theorem Blk.recordFault_spProj (f : ModelFault) : (b.recordFault f).spProj = b.spProj := rfl
@[simp] theorem Blk.recordFault_spPv (f : ModelFault) : (b.recordFault f).spPv = b.spPv := rfl
@[simp] theorem Blk.recordFault_spTex (f : ModelFault) : (b.recordFault f).spTex = b.spTex := rfl
@[simp] theorem Blk.recordFault_IE (f : ModelFault) : (b.recordFault f).IE = b.IE := rfl
@[simp] theorem Blk.recordFault_IME (f : ModelFault) : (b.recordFault f).IME = b.IME := rfl
@[simp] theorem Blk.recordFault_IF (f : ModelFault) : (b.recordFault f).IF = b.IF := rfl
@[simp] theorem Blk.recordFault_prevCond (f : ModelFault) :
    (b.recordFault f).prevCond = b.prevCond := rfl
@[simp] theorem Blk.recordFault_pending (f : ModelFault) :
    (b.recordFault f).pending = b.pending := rfl
@[simp] theorem Blk.recordFault_fault (f : ModelFault) :
    (b.recordFault f).fault = match b.fault with | some f0 => some f0 | none => some f := rfl
@[simp] theorem Blk.recordFault_refused (f : ModelFault) :
    (b.recordFault f).refused = b.refused := rfl
@[simp] theorem Blk.recordFault_diag (f : ModelFault) : (b.recordFault f).diag = b.diag := rfl

/-! `emitDiag` -/

@[simp] theorem Blk.emitDiag_clearColor (k : DiagKind) (a : Addr) :
    (b.emitDiag k a).clearColor = b.clearColor := rfl
@[simp] theorem Blk.emitDiag_clearDepth (k : DiagKind) (a : Addr) :
    (b.emitDiag k a).clearDepth = b.clearDepth := rfl
@[simp] theorem Blk.emitDiag_texParams (k : DiagKind) (a : Addr) :
    (b.emitDiag k a).texParams = b.texParams := rfl
@[simp] theorem Blk.emitDiag_test (k : DiagKind) (a : Addr) : (b.emitDiag k a).test = b.test := rfl
@[simp] theorem Blk.emitDiag_underflow (k : DiagKind) (a : Addr) :
    (b.emitDiag k a).underflow = b.underflow := rfl
@[simp] theorem Blk.emitDiag_overflow (k : DiagKind) (a : Addr) :
    (b.emitDiag k a).overflow = b.overflow := rfl
@[simp] theorem Blk.emitDiag_irqMode (k : DiagKind) (a : Addr) :
    (b.emitDiag k a).irqMode = b.irqMode := rfl
@[simp] theorem Blk.emitDiag_queue (k : DiagKind) (a : Addr) :
    (b.emitDiag k a).queue = b.queue := rfl
@[simp] theorem Blk.emitDiag_pipe (k : DiagKind) (a : Addr) : (b.emitDiag k a).pipe = b.pipe := rfl
@[simp] theorem Blk.emitDiag_mode (k : DiagKind) (a : Addr) : (b.emitDiag k a).mode = b.mode := rfl
@[simp] theorem Blk.emitDiag_P (k : DiagKind) (a : Addr) : (b.emitDiag k a).P = b.P := rfl
@[simp] theorem Blk.emitDiag_Pos (k : DiagKind) (a : Addr) : (b.emitDiag k a).Pos = b.Pos := rfl
@[simp] theorem Blk.emitDiag_Vec (k : DiagKind) (a : Addr) : (b.emitDiag k a).Vec = b.Vec := rfl
@[simp] theorem Blk.emitDiag_T (k : DiagKind) (a : Addr) : (b.emitDiag k a).T = b.T := rfl
@[simp] theorem Blk.emitDiag_projStack (k : DiagKind) (a : Addr) :
    (b.emitDiag k a).projStack = b.projStack := rfl
@[simp] theorem Blk.emitDiag_posStack (k : DiagKind) (a : Addr) :
    (b.emitDiag k a).posStack = b.posStack := rfl
@[simp] theorem Blk.emitDiag_vecStack (k : DiagKind) (a : Addr) :
    (b.emitDiag k a).vecStack = b.vecStack := rfl
@[simp] theorem Blk.emitDiag_texStack (k : DiagKind) (a : Addr) :
    (b.emitDiag k a).texStack = b.texStack := rfl
@[simp] theorem Blk.emitDiag_spProj (k : DiagKind) (a : Addr) :
    (b.emitDiag k a).spProj = b.spProj := rfl
@[simp] theorem Blk.emitDiag_spPv (k : DiagKind) (a : Addr) : (b.emitDiag k a).spPv = b.spPv := rfl
@[simp] theorem Blk.emitDiag_spTex (k : DiagKind) (a : Addr) :
    (b.emitDiag k a).spTex = b.spTex := rfl
@[simp] theorem Blk.emitDiag_IE (k : DiagKind) (a : Addr) : (b.emitDiag k a).IE = b.IE := rfl
@[simp] theorem Blk.emitDiag_IME (k : DiagKind) (a : Addr) : (b.emitDiag k a).IME = b.IME := rfl
@[simp] theorem Blk.emitDiag_IF (k : DiagKind) (a : Addr) : (b.emitDiag k a).IF = b.IF := rfl
@[simp] theorem Blk.emitDiag_prevCond (k : DiagKind) (a : Addr) :
    (b.emitDiag k a).prevCond = b.prevCond := rfl
@[simp] theorem Blk.emitDiag_pending (k : DiagKind) (a : Addr) :
    (b.emitDiag k a).pending = b.pending := rfl
@[simp] theorem Blk.emitDiag_fault (k : DiagKind) (a : Addr) :
    (b.emitDiag k a).fault = b.fault := rfl
@[simp] theorem Blk.emitDiag_refused (k : DiagKind) (a : Addr) :
    (b.emitDiag k a).refused = b.refused := rfl
@[simp] theorem Blk.emitDiag_diag (k : DiagKind) (a : Addr) :
    (b.emitDiag k a).diag = b.diag ++ [⟨k, a⟩] := rfl

/-! `setOverflow` -/

@[simp] theorem Blk.setOverflow_clearColor : (b.setOverflow).clearColor = b.clearColor := rfl
@[simp] theorem Blk.setOverflow_clearDepth : (b.setOverflow).clearDepth = b.clearDepth := rfl
@[simp] theorem Blk.setOverflow_texParams : (b.setOverflow).texParams = b.texParams := rfl
@[simp] theorem Blk.setOverflow_test : (b.setOverflow).test = b.test := rfl
@[simp] theorem Blk.setOverflow_underflow : (b.setOverflow).underflow = b.underflow := rfl
@[simp] theorem Blk.setOverflow_overflow : (b.setOverflow).overflow = true := rfl
@[simp] theorem Blk.setOverflow_irqMode : (b.setOverflow).irqMode = b.irqMode := rfl
@[simp] theorem Blk.setOverflow_queue : (b.setOverflow).queue = b.queue := rfl
@[simp] theorem Blk.setOverflow_pipe : (b.setOverflow).pipe = b.pipe := rfl
@[simp] theorem Blk.setOverflow_mode : (b.setOverflow).mode = b.mode := rfl
@[simp] theorem Blk.setOverflow_P : (b.setOverflow).P = b.P := rfl
@[simp] theorem Blk.setOverflow_Pos : (b.setOverflow).Pos = b.Pos := rfl
@[simp] theorem Blk.setOverflow_Vec : (b.setOverflow).Vec = b.Vec := rfl
@[simp] theorem Blk.setOverflow_T : (b.setOverflow).T = b.T := rfl
@[simp] theorem Blk.setOverflow_projStack : (b.setOverflow).projStack = b.projStack := rfl
@[simp] theorem Blk.setOverflow_posStack : (b.setOverflow).posStack = b.posStack := rfl
@[simp] theorem Blk.setOverflow_vecStack : (b.setOverflow).vecStack = b.vecStack := rfl
@[simp] theorem Blk.setOverflow_texStack : (b.setOverflow).texStack = b.texStack := rfl
@[simp] theorem Blk.setOverflow_spProj : (b.setOverflow).spProj = b.spProj := rfl
@[simp] theorem Blk.setOverflow_spPv : (b.setOverflow).spPv = b.spPv := rfl
@[simp] theorem Blk.setOverflow_spTex : (b.setOverflow).spTex = b.spTex := rfl
@[simp] theorem Blk.setOverflow_IE : (b.setOverflow).IE = b.IE := rfl
@[simp] theorem Blk.setOverflow_IME : (b.setOverflow).IME = b.IME := rfl
@[simp] theorem Blk.setOverflow_IF : (b.setOverflow).IF = b.IF := rfl
@[simp] theorem Blk.setOverflow_prevCond : (b.setOverflow).prevCond = b.prevCond := rfl
@[simp] theorem Blk.setOverflow_pending : (b.setOverflow).pending = b.pending := rfl
@[simp] theorem Blk.setOverflow_fault : (b.setOverflow).fault = b.fault := rfl
@[simp] theorem Blk.setOverflow_refused : (b.setOverflow).refused = b.refused := rfl
@[simp] theorem Blk.setOverflow_diag : (b.setOverflow).diag = b.diag := rfl

/-! `setUnderflow` -/

@[simp] theorem Blk.setUnderflow_clearColor : (b.setUnderflow).clearColor = b.clearColor := rfl
@[simp] theorem Blk.setUnderflow_clearDepth : (b.setUnderflow).clearDepth = b.clearDepth := rfl
@[simp] theorem Blk.setUnderflow_texParams : (b.setUnderflow).texParams = b.texParams := rfl
@[simp] theorem Blk.setUnderflow_test : (b.setUnderflow).test = b.test := rfl
@[simp] theorem Blk.setUnderflow_underflow : (b.setUnderflow).underflow = true := rfl
@[simp] theorem Blk.setUnderflow_overflow : (b.setUnderflow).overflow = b.overflow := rfl
@[simp] theorem Blk.setUnderflow_irqMode : (b.setUnderflow).irqMode = b.irqMode := rfl
@[simp] theorem Blk.setUnderflow_queue : (b.setUnderflow).queue = b.queue := rfl
@[simp] theorem Blk.setUnderflow_pipe : (b.setUnderflow).pipe = b.pipe := rfl
@[simp] theorem Blk.setUnderflow_mode : (b.setUnderflow).mode = b.mode := rfl
@[simp] theorem Blk.setUnderflow_P : (b.setUnderflow).P = b.P := rfl
@[simp] theorem Blk.setUnderflow_Pos : (b.setUnderflow).Pos = b.Pos := rfl
@[simp] theorem Blk.setUnderflow_Vec : (b.setUnderflow).Vec = b.Vec := rfl
@[simp] theorem Blk.setUnderflow_T : (b.setUnderflow).T = b.T := rfl
@[simp] theorem Blk.setUnderflow_projStack : (b.setUnderflow).projStack = b.projStack := rfl
@[simp] theorem Blk.setUnderflow_posStack : (b.setUnderflow).posStack = b.posStack := rfl
@[simp] theorem Blk.setUnderflow_vecStack : (b.setUnderflow).vecStack = b.vecStack := rfl
@[simp] theorem Blk.setUnderflow_texStack : (b.setUnderflow).texStack = b.texStack := rfl
@[simp] theorem Blk.setUnderflow_spProj : (b.setUnderflow).spProj = b.spProj := rfl
@[simp] theorem Blk.setUnderflow_spPv : (b.setUnderflow).spPv = b.spPv := rfl
@[simp] theorem Blk.setUnderflow_spTex : (b.setUnderflow).spTex = b.spTex := rfl
@[simp] theorem Blk.setUnderflow_IE : (b.setUnderflow).IE = b.IE := rfl
@[simp] theorem Blk.setUnderflow_IME : (b.setUnderflow).IME = b.IME := rfl
@[simp] theorem Blk.setUnderflow_IF : (b.setUnderflow).IF = b.IF := rfl
@[simp] theorem Blk.setUnderflow_prevCond : (b.setUnderflow).prevCond = b.prevCond := rfl
@[simp] theorem Blk.setUnderflow_pending : (b.setUnderflow).pending = b.pending := rfl
@[simp] theorem Blk.setUnderflow_fault : (b.setUnderflow).fault = b.fault := rfl
@[simp] theorem Blk.setUnderflow_refused : (b.setUnderflow).refused = b.refused := rfl
@[simp] theorem Blk.setUnderflow_diag : (b.setUnderflow).diag = b.diag := rfl

/-! `clearFlags` -/

@[simp] theorem Blk.clearFlags_clearColor (v : Byte) :
    (b.clearFlags v).clearColor = b.clearColor := rfl
@[simp] theorem Blk.clearFlags_clearDepth (v : Byte) :
    (b.clearFlags v).clearDepth = b.clearDepth := rfl
@[simp] theorem Blk.clearFlags_texParams (v : Byte) :
    (b.clearFlags v).texParams = b.texParams := rfl
@[simp] theorem Blk.clearFlags_test (v : Byte) : (b.clearFlags v).test = b.test := rfl
@[simp] theorem Blk.clearFlags_underflow (v : Byte) :
    (b.clearFlags v).underflow = (b.underflow && !v.getLsbD 6) := rfl
@[simp] theorem Blk.clearFlags_overflow (v : Byte) :
    (b.clearFlags v).overflow = (b.overflow && !v.getLsbD 7) := rfl
@[simp] theorem Blk.clearFlags_irqMode (v : Byte) : (b.clearFlags v).irqMode = b.irqMode := rfl
@[simp] theorem Blk.clearFlags_queue (v : Byte) : (b.clearFlags v).queue = b.queue := rfl
@[simp] theorem Blk.clearFlags_pipe (v : Byte) : (b.clearFlags v).pipe = b.pipe := rfl
@[simp] theorem Blk.clearFlags_mode (v : Byte) : (b.clearFlags v).mode = b.mode := rfl
@[simp] theorem Blk.clearFlags_P (v : Byte) : (b.clearFlags v).P = b.P := rfl
@[simp] theorem Blk.clearFlags_Pos (v : Byte) : (b.clearFlags v).Pos = b.Pos := rfl
@[simp] theorem Blk.clearFlags_Vec (v : Byte) : (b.clearFlags v).Vec = b.Vec := rfl
@[simp] theorem Blk.clearFlags_T (v : Byte) : (b.clearFlags v).T = b.T := rfl
@[simp] theorem Blk.clearFlags_projStack (v : Byte) :
    (b.clearFlags v).projStack = b.projStack := rfl
@[simp] theorem Blk.clearFlags_posStack (v : Byte) : (b.clearFlags v).posStack = b.posStack := rfl
@[simp] theorem Blk.clearFlags_vecStack (v : Byte) : (b.clearFlags v).vecStack = b.vecStack := rfl
@[simp] theorem Blk.clearFlags_texStack (v : Byte) : (b.clearFlags v).texStack = b.texStack := rfl
@[simp] theorem Blk.clearFlags_spProj (v : Byte) : (b.clearFlags v).spProj = b.spProj := rfl
@[simp] theorem Blk.clearFlags_spPv (v : Byte) : (b.clearFlags v).spPv = b.spPv := rfl
@[simp] theorem Blk.clearFlags_spTex (v : Byte) : (b.clearFlags v).spTex = b.spTex := rfl
@[simp] theorem Blk.clearFlags_IE (v : Byte) : (b.clearFlags v).IE = b.IE := rfl
@[simp] theorem Blk.clearFlags_IME (v : Byte) : (b.clearFlags v).IME = b.IME := rfl
@[simp] theorem Blk.clearFlags_IF (v : Byte) : (b.clearFlags v).IF = b.IF := rfl
@[simp] theorem Blk.clearFlags_prevCond (v : Byte) : (b.clearFlags v).prevCond = b.prevCond := rfl
@[simp] theorem Blk.clearFlags_pending (v : Byte) : (b.clearFlags v).pending = b.pending := rfl
@[simp] theorem Blk.clearFlags_fault (v : Byte) : (b.clearFlags v).fault = b.fault := rfl
@[simp] theorem Blk.clearFlags_refused (v : Byte) : (b.clearFlags v).refused = b.refused := rfl
@[simp] theorem Blk.clearFlags_diag (v : Byte) : (b.clearFlags v).diag = b.diag := rfl

/-! `setCurrent` -/

@[simp] theorem Blk.setCurrent_clearColor (c : MatrixClass) (m : Matrix) :
    (b.setCurrent c m).clearColor = b.clearColor := by cases c <;> rfl
@[simp] theorem Blk.setCurrent_clearDepth (c : MatrixClass) (m : Matrix) :
    (b.setCurrent c m).clearDepth = b.clearDepth := by cases c <;> rfl
@[simp] theorem Blk.setCurrent_texParams (c : MatrixClass) (m : Matrix) :
    (b.setCurrent c m).texParams = b.texParams := by cases c <;> rfl
@[simp] theorem Blk.setCurrent_test (c : MatrixClass) (m : Matrix) :
    (b.setCurrent c m).test = b.test := by cases c <;> rfl
@[simp] theorem Blk.setCurrent_underflow (c : MatrixClass) (m : Matrix) :
    (b.setCurrent c m).underflow = b.underflow := by cases c <;> rfl
@[simp] theorem Blk.setCurrent_overflow (c : MatrixClass) (m : Matrix) :
    (b.setCurrent c m).overflow = b.overflow := by cases c <;> rfl
@[simp] theorem Blk.setCurrent_irqMode (c : MatrixClass) (m : Matrix) :
    (b.setCurrent c m).irqMode = b.irqMode := by cases c <;> rfl
@[simp] theorem Blk.setCurrent_queue (c : MatrixClass) (m : Matrix) :
    (b.setCurrent c m).queue = b.queue := by cases c <;> rfl
@[simp] theorem Blk.setCurrent_pipe (c : MatrixClass) (m : Matrix) :
    (b.setCurrent c m).pipe = b.pipe := by cases c <;> rfl
@[simp] theorem Blk.setCurrent_mode (c : MatrixClass) (m : Matrix) :
    (b.setCurrent c m).mode = b.mode := by cases c <;> rfl
@[simp] theorem Blk.setCurrent_P (c : MatrixClass) (m : Matrix) :
    (b.setCurrent c m).P = if c = .projection then m else b.P := by cases c <;> rfl
@[simp] theorem Blk.setCurrent_Pos (c : MatrixClass) (m : Matrix) :
    (b.setCurrent c m).Pos = if c = .position then m else b.Pos := by cases c <;> rfl
@[simp] theorem Blk.setCurrent_Vec (c : MatrixClass) (m : Matrix) :
    (b.setCurrent c m).Vec = if c = .vector then m else b.Vec := by cases c <;> rfl
@[simp] theorem Blk.setCurrent_T (c : MatrixClass) (m : Matrix) :
    (b.setCurrent c m).T = if c = .texture then m else b.T := by cases c <;> rfl
@[simp] theorem Blk.setCurrent_projStack (c : MatrixClass) (m : Matrix) :
    (b.setCurrent c m).projStack = b.projStack := by cases c <;> rfl
@[simp] theorem Blk.setCurrent_posStack (c : MatrixClass) (m : Matrix) :
    (b.setCurrent c m).posStack = b.posStack := by cases c <;> rfl
@[simp] theorem Blk.setCurrent_vecStack (c : MatrixClass) (m : Matrix) :
    (b.setCurrent c m).vecStack = b.vecStack := by cases c <;> rfl
@[simp] theorem Blk.setCurrent_texStack (c : MatrixClass) (m : Matrix) :
    (b.setCurrent c m).texStack = b.texStack := by cases c <;> rfl
@[simp] theorem Blk.setCurrent_spProj (c : MatrixClass) (m : Matrix) :
    (b.setCurrent c m).spProj = b.spProj := by cases c <;> rfl
@[simp] theorem Blk.setCurrent_spPv (c : MatrixClass) (m : Matrix) :
    (b.setCurrent c m).spPv = b.spPv := by cases c <;> rfl
@[simp] theorem Blk.setCurrent_spTex (c : MatrixClass) (m : Matrix) :
    (b.setCurrent c m).spTex = b.spTex := by cases c <;> rfl
@[simp] theorem Blk.setCurrent_IE (c : MatrixClass) (m : Matrix) :
    (b.setCurrent c m).IE = b.IE := by cases c <;> rfl
@[simp] theorem Blk.setCurrent_IME (c : MatrixClass) (m : Matrix) :
    (b.setCurrent c m).IME = b.IME := by cases c <;> rfl
@[simp] theorem Blk.setCurrent_IF (c : MatrixClass) (m : Matrix) :
    (b.setCurrent c m).IF = b.IF := by cases c <;> rfl
@[simp] theorem Blk.setCurrent_prevCond (c : MatrixClass) (m : Matrix) :
    (b.setCurrent c m).prevCond = b.prevCond := by cases c <;> rfl
@[simp] theorem Blk.setCurrent_pending (c : MatrixClass) (m : Matrix) :
    (b.setCurrent c m).pending = b.pending := by cases c <;> rfl
@[simp] theorem Blk.setCurrent_fault (c : MatrixClass) (m : Matrix) :
    (b.setCurrent c m).fault = b.fault := by cases c <;> rfl
@[simp] theorem Blk.setCurrent_refused (c : MatrixClass) (m : Matrix) :
    (b.setCurrent c m).refused = b.refused := by cases c <;> rfl
@[simp] theorem Blk.setCurrent_diag (c : MatrixClass) (m : Matrix) :
    (b.setCurrent c m).diag = b.diag := by cases c <;> rfl

/-! `setSlot` -/

@[simp] theorem Blk.setSlot_clearColor (c : MatrixClass) (i : Nat) (m : Matrix) :
    (b.setSlot c i m).clearColor = b.clearColor := by cases c <;> rfl
@[simp] theorem Blk.setSlot_clearDepth (c : MatrixClass) (i : Nat) (m : Matrix) :
    (b.setSlot c i m).clearDepth = b.clearDepth := by cases c <;> rfl
@[simp] theorem Blk.setSlot_texParams (c : MatrixClass) (i : Nat) (m : Matrix) :
    (b.setSlot c i m).texParams = b.texParams := by cases c <;> rfl
@[simp] theorem Blk.setSlot_test (c : MatrixClass) (i : Nat) (m : Matrix) :
    (b.setSlot c i m).test = b.test := by cases c <;> rfl
@[simp] theorem Blk.setSlot_underflow (c : MatrixClass) (i : Nat) (m : Matrix) :
    (b.setSlot c i m).underflow = b.underflow := by cases c <;> rfl
@[simp] theorem Blk.setSlot_overflow (c : MatrixClass) (i : Nat) (m : Matrix) :
    (b.setSlot c i m).overflow = b.overflow := by cases c <;> rfl
@[simp] theorem Blk.setSlot_irqMode (c : MatrixClass) (i : Nat) (m : Matrix) :
    (b.setSlot c i m).irqMode = b.irqMode := by cases c <;> rfl
@[simp] theorem Blk.setSlot_queue (c : MatrixClass) (i : Nat) (m : Matrix) :
    (b.setSlot c i m).queue = b.queue := by cases c <;> rfl
@[simp] theorem Blk.setSlot_pipe (c : MatrixClass) (i : Nat) (m : Matrix) :
    (b.setSlot c i m).pipe = b.pipe := by cases c <;> rfl
@[simp] theorem Blk.setSlot_mode (c : MatrixClass) (i : Nat) (m : Matrix) :
    (b.setSlot c i m).mode = b.mode := by cases c <;> rfl
@[simp] theorem Blk.setSlot_P (c : MatrixClass) (i : Nat) (m : Matrix) :
    (b.setSlot c i m).P = b.P := by cases c <;> rfl
@[simp] theorem Blk.setSlot_Pos (c : MatrixClass) (i : Nat) (m : Matrix) :
    (b.setSlot c i m).Pos = b.Pos := by cases c <;> rfl
@[simp] theorem Blk.setSlot_Vec (c : MatrixClass) (i : Nat) (m : Matrix) :
    (b.setSlot c i m).Vec = b.Vec := by cases c <;> rfl
@[simp] theorem Blk.setSlot_T (c : MatrixClass) (i : Nat) (m : Matrix) :
    (b.setSlot c i m).T = b.T := by cases c <;> rfl
@[simp] theorem Blk.setSlot_projStack (c : MatrixClass) (i : Nat) (m : Matrix) :
    (b.setSlot c i m).projStack = if c = .projection then b.projStack.setIfInBounds i m else b.projStack :=
  by cases c <;> rfl
@[simp] theorem Blk.setSlot_posStack (c : MatrixClass) (i : Nat) (m : Matrix) :
    (b.setSlot c i m).posStack = if c = .position then b.posStack.setIfInBounds i m else b.posStack :=
  by cases c <;> rfl
@[simp] theorem Blk.setSlot_vecStack (c : MatrixClass) (i : Nat) (m : Matrix) :
    (b.setSlot c i m).vecStack = if c = .vector then b.vecStack.setIfInBounds i m else b.vecStack :=
  by cases c <;> rfl
@[simp] theorem Blk.setSlot_texStack (c : MatrixClass) (i : Nat) (m : Matrix) :
    (b.setSlot c i m).texStack = if c = .texture then b.texStack.setIfInBounds i m else b.texStack :=
  by cases c <;> rfl
@[simp] theorem Blk.setSlot_spProj (c : MatrixClass) (i : Nat) (m : Matrix) :
    (b.setSlot c i m).spProj = b.spProj := by cases c <;> rfl
@[simp] theorem Blk.setSlot_spPv (c : MatrixClass) (i : Nat) (m : Matrix) :
    (b.setSlot c i m).spPv = b.spPv := by cases c <;> rfl
@[simp] theorem Blk.setSlot_spTex (c : MatrixClass) (i : Nat) (m : Matrix) :
    (b.setSlot c i m).spTex = b.spTex := by cases c <;> rfl
@[simp] theorem Blk.setSlot_IE (c : MatrixClass) (i : Nat) (m : Matrix) :
    (b.setSlot c i m).IE = b.IE := by cases c <;> rfl
@[simp] theorem Blk.setSlot_IME (c : MatrixClass) (i : Nat) (m : Matrix) :
    (b.setSlot c i m).IME = b.IME := by cases c <;> rfl
@[simp] theorem Blk.setSlot_IF (c : MatrixClass) (i : Nat) (m : Matrix) :
    (b.setSlot c i m).IF = b.IF := by cases c <;> rfl
@[simp] theorem Blk.setSlot_prevCond (c : MatrixClass) (i : Nat) (m : Matrix) :
    (b.setSlot c i m).prevCond = b.prevCond := by cases c <;> rfl
@[simp] theorem Blk.setSlot_pending (c : MatrixClass) (i : Nat) (m : Matrix) :
    (b.setSlot c i m).pending = b.pending := by cases c <;> rfl
@[simp] theorem Blk.setSlot_fault (c : MatrixClass) (i : Nat) (m : Matrix) :
    (b.setSlot c i m).fault = b.fault := by cases c <;> rfl
@[simp] theorem Blk.setSlot_refused (c : MatrixClass) (i : Nat) (m : Matrix) :
    (b.setSlot c i m).refused = b.refused := by cases c <;> rfl
@[simp] theorem Blk.setSlot_diag (c : MatrixClass) (i : Nat) (m : Matrix) :
    (b.setSlot c i m).diag = b.diag := by cases c <;> rfl

/-! `setSp` -/

@[simp] theorem Blk.setSp_clearColor (n : Nat) :
    (b.setSp n).clearColor = b.clearColor := by unfold Blk.setSp; split <;> simp [*]
@[simp] theorem Blk.setSp_clearDepth (n : Nat) :
    (b.setSp n).clearDepth = b.clearDepth := by unfold Blk.setSp; split <;> simp [*]
@[simp] theorem Blk.setSp_texParams (n : Nat) :
    (b.setSp n).texParams = b.texParams := by unfold Blk.setSp; split <;> simp [*]
@[simp] theorem Blk.setSp_test (n : Nat) :
    (b.setSp n).test = b.test := by unfold Blk.setSp; split <;> simp [*]
@[simp] theorem Blk.setSp_underflow (n : Nat) :
    (b.setSp n).underflow = b.underflow := by unfold Blk.setSp; split <;> simp [*]
@[simp] theorem Blk.setSp_overflow (n : Nat) :
    (b.setSp n).overflow = b.overflow := by unfold Blk.setSp; split <;> simp [*]
@[simp] theorem Blk.setSp_irqMode (n : Nat) :
    (b.setSp n).irqMode = b.irqMode := by unfold Blk.setSp; split <;> simp [*]
@[simp] theorem Blk.setSp_queue (n : Nat) :
    (b.setSp n).queue = b.queue := by unfold Blk.setSp; split <;> simp [*]
@[simp] theorem Blk.setSp_pipe (n : Nat) :
    (b.setSp n).pipe = b.pipe := by unfold Blk.setSp; split <;> simp [*]
@[simp] theorem Blk.setSp_mode (n : Nat) :
    (b.setSp n).mode = b.mode := by unfold Blk.setSp; split <;> simp [*]
@[simp] theorem Blk.setSp_P (n : Nat) :
    (b.setSp n).P = b.P := by unfold Blk.setSp; split <;> simp [*]
@[simp] theorem Blk.setSp_Pos (n : Nat) :
    (b.setSp n).Pos = b.Pos := by unfold Blk.setSp; split <;> simp [*]
@[simp] theorem Blk.setSp_Vec (n : Nat) :
    (b.setSp n).Vec = b.Vec := by unfold Blk.setSp; split <;> simp [*]
@[simp] theorem Blk.setSp_T (n : Nat) :
    (b.setSp n).T = b.T := by unfold Blk.setSp; split <;> simp [*]
@[simp] theorem Blk.setSp_projStack (n : Nat) :
    (b.setSp n).projStack = b.projStack := by unfold Blk.setSp; split <;> simp [*]
@[simp] theorem Blk.setSp_posStack (n : Nat) :
    (b.setSp n).posStack = b.posStack := by unfold Blk.setSp; split <;> simp [*]
@[simp] theorem Blk.setSp_vecStack (n : Nat) :
    (b.setSp n).vecStack = b.vecStack := by unfold Blk.setSp; split <;> simp [*]
@[simp] theorem Blk.setSp_texStack (n : Nat) :
    (b.setSp n).texStack = b.texStack := by unfold Blk.setSp; split <;> simp [*]
@[simp] theorem Blk.setSp_spProj (n : Nat) :
    (b.setSp n).spProj = if b.mode = .projection then n else b.spProj :=
  by unfold Blk.setSp; split <;> simp [*]
@[simp] theorem Blk.setSp_spPv (n : Nat) :
    (b.setSp n).spPv = if b.mode = .position ∨ b.mode = .positionVector then n else b.spPv :=
  by unfold Blk.setSp; split <;> simp [*]
@[simp] theorem Blk.setSp_spTex (n : Nat) :
    (b.setSp n).spTex = if b.mode = .texture then n else b.spTex :=
  by unfold Blk.setSp; split <;> simp [*]
@[simp] theorem Blk.setSp_IE (n : Nat) :
    (b.setSp n).IE = b.IE := by unfold Blk.setSp; split <;> simp [*]
@[simp] theorem Blk.setSp_IME (n : Nat) :
    (b.setSp n).IME = b.IME := by unfold Blk.setSp; split <;> simp [*]
@[simp] theorem Blk.setSp_IF (n : Nat) :
    (b.setSp n).IF = b.IF := by unfold Blk.setSp; split <;> simp [*]
@[simp] theorem Blk.setSp_prevCond (n : Nat) :
    (b.setSp n).prevCond = b.prevCond := by unfold Blk.setSp; split <;> simp [*]
@[simp] theorem Blk.setSp_pending (n : Nat) :
    (b.setSp n).pending = b.pending := by unfold Blk.setSp; split <;> simp [*]
@[simp] theorem Blk.setSp_fault (n : Nat) :
    (b.setSp n).fault = b.fault := by unfold Blk.setSp; split <;> simp [*]
@[simp] theorem Blk.setSp_refused (n : Nat) :
    (b.setSp n).refused = b.refused := by unfold Blk.setSp; split <;> simp [*]
@[simp] theorem Blk.setSp_diag (n : Nat) :
    (b.setSp n).diag = b.diag := by unfold Blk.setSp; split <;> simp [*]

/-! `takeHead` -/

@[simp] theorem Blk.takeHead_clearColor :
    (b.takeHead).clearColor = b.clearColor := by unfold Blk.takeHead; split <;> simp [*]
@[simp] theorem Blk.takeHead_clearDepth :
    (b.takeHead).clearDepth = b.clearDepth := by unfold Blk.takeHead; split <;> simp [*]
@[simp] theorem Blk.takeHead_texParams :
    (b.takeHead).texParams = b.texParams := by unfold Blk.takeHead; split <;> simp [*]
@[simp] theorem Blk.takeHead_test :
    (b.takeHead).test = b.test := by unfold Blk.takeHead; split <;> simp [*]
@[simp] theorem Blk.takeHead_underflow :
    (b.takeHead).underflow = b.underflow := by unfold Blk.takeHead; split <;> simp [*]
@[simp] theorem Blk.takeHead_overflow :
    (b.takeHead).overflow = b.overflow := by unfold Blk.takeHead; split <;> simp [*]
@[simp] theorem Blk.takeHead_irqMode :
    (b.takeHead).irqMode = b.irqMode := by unfold Blk.takeHead; split <;> simp [*]
@[simp] theorem Blk.takeHead_queue :
    (b.takeHead).queue = b.queue.tail := by unfold Blk.takeHead; split <;> simp [*]
@[simp] theorem Blk.takeHead_pipe :
    (b.takeHead).pipe = b.pipe.tail ++ b.queue.take 1 := by unfold Blk.takeHead; split <;> simp [*]
@[simp] theorem Blk.takeHead_mode :
    (b.takeHead).mode = b.mode := by unfold Blk.takeHead; split <;> simp [*]
@[simp] theorem Blk.takeHead_P : (b.takeHead).P = b.P := by unfold Blk.takeHead; split <;> simp [*]
@[simp] theorem Blk.takeHead_Pos :
    (b.takeHead).Pos = b.Pos := by unfold Blk.takeHead; split <;> simp [*]
@[simp] theorem Blk.takeHead_Vec :
    (b.takeHead).Vec = b.Vec := by unfold Blk.takeHead; split <;> simp [*]
@[simp] theorem Blk.takeHead_T : (b.takeHead).T = b.T := by unfold Blk.takeHead; split <;> simp [*]
@[simp] theorem Blk.takeHead_projStack :
    (b.takeHead).projStack = b.projStack := by unfold Blk.takeHead; split <;> simp [*]
@[simp] theorem Blk.takeHead_posStack :
    (b.takeHead).posStack = b.posStack := by unfold Blk.takeHead; split <;> simp [*]
@[simp] theorem Blk.takeHead_vecStack :
    (b.takeHead).vecStack = b.vecStack := by unfold Blk.takeHead; split <;> simp [*]
@[simp] theorem Blk.takeHead_texStack :
    (b.takeHead).texStack = b.texStack := by unfold Blk.takeHead; split <;> simp [*]
@[simp] theorem Blk.takeHead_spProj :
    (b.takeHead).spProj = b.spProj := by unfold Blk.takeHead; split <;> simp [*]
@[simp] theorem Blk.takeHead_spPv :
    (b.takeHead).spPv = b.spPv := by unfold Blk.takeHead; split <;> simp [*]
@[simp] theorem Blk.takeHead_spTex :
    (b.takeHead).spTex = b.spTex := by unfold Blk.takeHead; split <;> simp [*]
@[simp] theorem Blk.takeHead_IE :
    (b.takeHead).IE = b.IE := by unfold Blk.takeHead; split <;> simp [*]
@[simp] theorem Blk.takeHead_IME :
    (b.takeHead).IME = b.IME := by unfold Blk.takeHead; split <;> simp [*]
@[simp] theorem Blk.takeHead_IF :
    (b.takeHead).IF = b.IF := by unfold Blk.takeHead; split <;> simp [*]
@[simp] theorem Blk.takeHead_prevCond :
    (b.takeHead).prevCond = b.prevCond := by unfold Blk.takeHead; split <;> simp [*]
@[simp] theorem Blk.takeHead_pending :
    (b.takeHead).pending = b.pending := by unfold Blk.takeHead; split <;> simp [*]
@[simp] theorem Blk.takeHead_fault :
    (b.takeHead).fault = b.fault := by unfold Blk.takeHead; split <;> simp [*]
@[simp] theorem Blk.takeHead_refused :
    (b.takeHead).refused = b.refused := by unfold Blk.takeHead; split <;> simp [*]
@[simp] theorem Blk.takeHead_diag :
    (b.takeHead).diag = b.diag := by unfold Blk.takeHead; split <;> simp [*]

/-! `tick` -/

@[simp] theorem Blk.tick_clearColor (i : Fin 14) :
    (b.tick i).clearColor = b.clearColor := by unfold Blk.tick; split <;> rfl
@[simp] theorem Blk.tick_clearDepth (i : Fin 14) :
    (b.tick i).clearDepth = b.clearDepth := by unfold Blk.tick; split <;> rfl
@[simp] theorem Blk.tick_texParams (i : Fin 14) :
    (b.tick i).texParams = b.texParams := by unfold Blk.tick; split <;> rfl
@[simp] theorem Blk.tick_test (i : Fin 14) :
    (b.tick i).test = b.test := by unfold Blk.tick; split <;> rfl
@[simp] theorem Blk.tick_underflow (i : Fin 14) :
    (b.tick i).underflow = b.underflow := by unfold Blk.tick; split <;> rfl
@[simp] theorem Blk.tick_overflow (i : Fin 14) :
    (b.tick i).overflow = b.overflow := by unfold Blk.tick; split <;> rfl
@[simp] theorem Blk.tick_irqMode (i : Fin 14) :
    (b.tick i).irqMode = b.irqMode := by unfold Blk.tick; split <;> rfl
@[simp] theorem Blk.tick_queue (i : Fin 14) :
    (b.tick i).queue = b.queue := by unfold Blk.tick; split <;> rfl
@[simp] theorem Blk.tick_pipe (i : Fin 14) :
    (b.tick i).pipe = b.pipe := by unfold Blk.tick; split <;> rfl
@[simp] theorem Blk.tick_mode (i : Fin 14) :
    (b.tick i).mode = b.mode := by unfold Blk.tick; split <;> rfl
@[simp] theorem Blk.tick_P (i : Fin 14) : (b.tick i).P = b.P := by unfold Blk.tick; split <;> rfl
@[simp] theorem Blk.tick_Pos (i : Fin 14) :
    (b.tick i).Pos = b.Pos := by unfold Blk.tick; split <;> rfl
@[simp] theorem Blk.tick_Vec (i : Fin 14) :
    (b.tick i).Vec = b.Vec := by unfold Blk.tick; split <;> rfl
@[simp] theorem Blk.tick_T (i : Fin 14) : (b.tick i).T = b.T := by unfold Blk.tick; split <;> rfl
@[simp] theorem Blk.tick_projStack (i : Fin 14) :
    (b.tick i).projStack = b.projStack := by unfold Blk.tick; split <;> rfl
@[simp] theorem Blk.tick_posStack (i : Fin 14) :
    (b.tick i).posStack = b.posStack := by unfold Blk.tick; split <;> rfl
@[simp] theorem Blk.tick_vecStack (i : Fin 14) :
    (b.tick i).vecStack = b.vecStack := by unfold Blk.tick; split <;> rfl
@[simp] theorem Blk.tick_texStack (i : Fin 14) :
    (b.tick i).texStack = b.texStack := by unfold Blk.tick; split <;> rfl
@[simp] theorem Blk.tick_spProj (i : Fin 14) :
    (b.tick i).spProj = b.spProj := by unfold Blk.tick; split <;> rfl
@[simp] theorem Blk.tick_spPv (i : Fin 14) :
    (b.tick i).spPv = b.spPv := by unfold Blk.tick; split <;> rfl
@[simp] theorem Blk.tick_spTex (i : Fin 14) :
    (b.tick i).spTex = b.spTex := by unfold Blk.tick; split <;> rfl
@[simp] theorem Blk.tick_IE (i : Fin 14) : (b.tick i).IE = b.IE := by unfold Blk.tick; split <;> rfl
@[simp] theorem Blk.tick_IME (i : Fin 14) :
    (b.tick i).IME = b.IME := by unfold Blk.tick; split <;> rfl
@[simp] theorem Blk.tick_IF (i : Fin 14) :
    (b.tick i).IF = if b.pending.any (· ≤ 1) then b.IF ||| (1 <<< i.val) else b.IF :=
  by unfold Blk.tick; split <;> rfl
@[simp] theorem Blk.tick_prevCond (i : Fin 14) :
    (b.tick i).prevCond = b.prevCond := by unfold Blk.tick; split <;> rfl
@[simp] theorem Blk.tick_pending (i : Fin 14) :
    (b.tick i).pending = (b.pending.filter (1 < ·)).map (· - 1) := by unfold Blk.tick; split <;> rfl
@[simp] theorem Blk.tick_fault (i : Fin 14) :
    (b.tick i).fault = b.fault := by unfold Blk.tick; split <;> rfl
@[simp] theorem Blk.tick_refused (i : Fin 14) :
    (b.tick i).refused = b.refused := by unfold Blk.tick; split <;> rfl
@[simp] theorem Blk.tick_diag (i : Fin 14) :
    (b.tick i).diag = b.diag := by unfold Blk.tick; split <;> rfl

end

end Sys2Proof.Machine
end

