-- ==== Sys2Proof/Laws/RegisterMap.lean ====
section
/-! SUPPORT. Addresses, byte indexes and the register map of the two pages. -/

namespace Sys2Proof.Machine

/-! ### Addresses -/

/-- The high part of a concatenation. -/
theorem append_high (sel : PageSel) (off : Offset) :
    BitVec.extractLsb' 12 20 (sel ++ off : BitVec (20 + 12)) = sel := by
  ext i hi
  simp only [BitVec.getElem_extractLsb', BitVec.getLsbD_append]
  simp [hi]

/-- The low part of a concatenation. -/
theorem append_low (sel : PageSel) (off : Offset) :
    BitVec.extractLsb' 0 12 (sel ++ off : BitVec (20 + 12)) = off := by
  ext i hi
  simp only [BitVec.getElem_extractLsb', BitVec.getLsbD_append]
  simp [hi]

/-- A word is its high and low parts. -/
theorem append_high_low (a : BitVec (20 + 12)) :
    (a.extractLsb' 12 20 ++ a.extractLsb' 0 12 : BitVec (20 + 12)) = a := by
  ext i hi
  simp only [BitVec.getElem_append, BitVec.getElem_extractLsb']
  split
  · simp [BitVec.getLsbD_eq_getElem, hi]
  · rw [show 12 + (i - 12) = i by omega, BitVec.getLsbD_eq_getElem hi]

/-- R80: the selector of an address. -/
@[simp] theorem selector_addrOf (sel : PageSel) (off : Offset) :
    Addr.selector (addrOf sel off) = sel := append_high sel off

/-- R80: the offset of an address. -/
@[simp] theorem offset_addrOf (sel : PageSel) (off : Offset) :
    Addr.offset (addrOf sel off) = off := append_low sel off

/-- R80: an address is its selector and its offset. -/
theorem addrOf_selector_offset (a : Addr) : addrOf (Addr.selector a) (Addr.offset a) = a :=
  append_high_low a

/-- R80: two addresses are equal when their selectors and offsets are. -/
theorem addrOf_inj {sel sel' : PageSel} {off off' : Offset} :
    addrOf sel off = addrOf sel' off' ↔ sel = sel' ∧ off = off' := by
  constructor
  · intro h
    exact ⟨by simpa using congrArg Addr.selector h, by simpa using congrArg Addr.offset h⟩
  · rintro ⟨rfl, rfl⟩; rfl

/-! ### Byte indexes -/

/-- The four values of a two-bit byte index. -/
theorem bitVec2_cases (k : BitVec 2) : k = 0 ∨ k = 1 ∨ k = 2 ∨ k = 3 := by revert k; decide

/-- The two values of a one-bit byte index. -/
theorem bitVec1_cases (k : BitVec 1) : k = 0 ∨ k = 1 := by revert k; decide

/-- Outside a register there is no byte index. -/
theorem byteIndex_eq_none {base off : Offset} {n : Nat} (h : off.toNat < base.toNat ∨ base.toNat + n ≤ off.toNat) :
    byteIndex base n off = none := by
  rw [byteIndex, if_neg]; omega

/-- Inside a register the byte index is the distance from its base. -/
theorem byteIndex_eq_some {base off : Offset} {n k : Nat} :
    byteIndex base n off = some k ↔ base.toNat ≤ off.toNat ∧ off.toNat < base.toNat + n ∧ k = off.toNat - base.toNat := by
  rw [byteIndex]; split <;> simp_all [eq_comm]

/-- The byte index inside a register whose base is known. -/
theorem byteIndex_inside {base off : Offset} {n b : Nat} (hb : base.toNat = b)
    (h : b ≤ off.toNat ∧ off.toNat < b + n) : byteIndex base n off = some (off.toNat - b) := by
  subst hb; exact byteIndex_eq_some.2 ⟨h.1, h.2, rfl⟩

/-- R81: when an offset lies in TextureParams. -/
theorem texByteIndex_eq_some {tex : Option Offset} {off : Offset} {k : Nat} :
    texByteIndex tex off = some k ↔
      ∃ t, tex = some t ∧ t.toNat ≤ off.toNat ∧ off.toNat ≤ t.toNat + 3 ∧ k = off.toNat - t.toNat := by
  cases tex with
  | none => simp [texByteIndex]
  | some t => simp only [texByteIndex]; split <;> simp_all [eq_comm]

/-- R81's rule for `TEXPARAMS_OFFSET`. -/
theorem texOffsetLegal_some {t : Offset} :
    texOffsetLegal (some t) = true ↔ t.toNat % 4 = 0 ∧
      (t.toNat + 3 < 0x350 ∨ 0x355 < t.toNat) ∧ (t.toNat + 3 < 0x600 ∨ 0x603 < t.toNat) := by
  simp [texOffsetLegal, and_assoc]

/-- Where TextureParams is placed legally, it takes no offset of another register (R81). -/
theorem texByteIndex_eq_none_of_legal {tex : Option Offset} {off : Offset}
    (h : texOffsetLegal tex = true)
    (ho : (0x350 ≤ off.toNat ∧ off.toNat ≤ 0x357) ∨ (0x600 ≤ off.toNat ∧ off.toNat ≤ 0x603)) :
    texByteIndex tex off = none := by
  cases tex with
  | none => rfl
  | some t =>
    rw [texOffsetLegal_some] at h
    rw [texByteIndex, if_neg]
    omega

/-- Two numbers that agree modulo a power of two name the same byte. -/
theorem ofNat_eq_ofNat {w n m : Nat} (h : n % 2 ^ w = m % 2 ^ w) : BitVec.ofNat w n = BitVec.ofNat w m := by
  apply BitVec.eq_of_toNat_eq; simpa using h

/-- The offset of a byte, from its index. -/
theorem offsetOf_ofNat {w : Nat} {base off : Offset} {b : Nat} (_hb : base.toNat = b)
    (hd : ∀ k : BitVec w, (offsetOf base k).toNat = b + k.toNat) (h : b ≤ off.toNat ∧ off.toNat < b + 2 ^ w) :
    offsetOf base (BitVec.ofNat w (off.toNat - b)) = off := by
  apply BitVec.eq_of_toNat_eq
  rw [hd, BitVec.toNat_ofNat, Nat.mod_eq_of_lt (by omega)]
  omega

/-! ### The registers -/

/-- R81: ClearColor. -/
@[simp] theorem regAt_clearColor (tex : Option Offset) (k : BitVec 2) :
    regAt tex .gx (offsetOf Config.clearColorOffset k) = some (.clearColor, k.toNat) := by
  rcases bitVec2_cases k with rfl | rfl | rfl | rfl <;> rfl

/-- R81: ClearDepth. -/
@[simp] theorem regAt_clearDepth (tex : Option Offset) (k : BitVec 1) :
    regAt tex .gx (offsetOf Config.clearDepthOffset k) = some (.clearDepth, k.toNat) := by
  rcases bitVec1_cases k with rfl | rfl <;> rfl

/-- R81: GXSTAT. -/
@[simp] theorem regAt_gxstat {tex : Option Offset} (h : texOffsetLegal tex = true) (k : BitVec 2) :
    regAt tex .gx (offsetOf Config.gxstatOffset k) = some (.gxstat, k.toNat) := by
  rcases bitVec2_cases k with rfl | rfl | rfl | rfl <;>
  · simp only [regAt, gxRegAt]
    rw [texByteIndex_eq_none_of_legal h (by decide)]
    rfl

/-- R82: MasterEnable. -/
@[simp] theorem regAt_masterEnable (tex : Option Offset) (k : BitVec 2) :
    regAt tex .irq (offsetOf Config.masterEnableOffset k) = some (.masterEnable, k.toNat) := by
  rcases bitVec2_cases k with rfl | rfl | rfl | rfl <;> rfl

/-- R82: Enable. -/
@[simp] theorem regAt_enable (tex : Option Offset) (k : BitVec 2) :
    regAt tex .irq (offsetOf Config.enableOffset k) = some (.enable, k.toNat) := by
  rcases bitVec2_cases k with rfl | rfl | rfl | rfl <;> rfl

/-- R82: Request. -/
@[simp] theorem regAt_request (tex : Option Offset) (k : BitVec 2) :
    regAt tex .irq (offsetOf Config.requestOffset k) = some (.request, k.toNat) := by
  rcases bitVec2_cases k with rfl | rfl | rfl | rfl <;> rfl

/-- R81: TextureParams, where it is placed. -/
theorem regAt_texParams {t : Offset} (h : texOffsetLegal (some t) = true) (k : BitVec 2) :
    regAt (some t) .gx (t + k.setWidth 12) = some (.texParams, k.toNat) := by
  rw [texOffsetLegal_some] at h
  have hk := k.isLt
  have ht := t.isLt
  have e : (t + k.setWidth 12).toNat = t.toNat + k.toNat := by
    simp [BitVec.toNat_add]; omega
  simp only [regAt, gxRegAt]
  have c1 : byteIndex Config.clearColorOffset 4 (t + k.setWidth 12) = none :=
    byteIndex_eq_none (by rw [e]; simp [Config.clearColorOffset]; omega)
  have c2 : byteIndex Config.clearDepthOffset 2 (t + k.setWidth 12) = none :=
    byteIndex_eq_none (by rw [e]; simp [Config.clearDepthOffset]; omega)
  have c3 : texByteIndex (some t) (t + k.setWidth 12) = some k.toNat :=
    texByteIndex_eq_some.2 ⟨t, rfl, by omega, by omega, by omega⟩
  rw [c1, c2, c3]

/-- The registers of the GX page by ranges of offsets (R81). -/
theorem gxRegAt_cases (tex : Option Offset) (off : Offset) :
    (0x350 ≤ off.toNat ∧ off.toNat < 0x354 ∧ gxRegAt tex off = some (.clearColor, off.toNat - 0x350)) ∨
    (0x354 ≤ off.toNat ∧ off.toNat < 0x356 ∧ gxRegAt tex off = some (.clearDepth, off.toNat - 0x354)) ∨
    (∃ t, tex = some t ∧ ¬ (0x350 ≤ off.toNat ∧ off.toNat < 0x356) ∧ t.toNat ≤ off.toNat ∧
      off.toNat ≤ t.toNat + 3 ∧ gxRegAt tex off = some (.texParams, off.toNat - t.toNat)) ∨
    (0x600 ≤ off.toNat ∧ off.toNat < 0x604 ∧
      (∀ t, tex = some t → ¬ (t.toNat ≤ off.toNat ∧ off.toNat ≤ t.toNat + 3)) ∧
      gxRegAt tex off = some (.gxstat, off.toNat - 0x600)) ∨
    (¬ (0x350 ≤ off.toNat ∧ off.toNat < 0x356) ∧ ¬ (0x600 ≤ off.toNat ∧ off.toNat < 0x604) ∧
      (∀ t, tex = some t → ¬ (t.toNat ≤ off.toNat ∧ off.toNat ≤ t.toNat + 3)) ∧
      gxRegAt tex off = none) := by
  unfold gxRegAt
  by_cases c1 : 0x350 ≤ off.toNat ∧ off.toNat < 0x354
  · rw [byteIndex_inside (base := Config.clearColorOffset) (n := 4) (b := 0x350) rfl c1]; exact .inl ⟨c1.1, c1.2, rfl⟩
  rw [byteIndex_eq_none (base := Config.clearColorOffset) (n := 4)
    (by simp only [Config.clearColorOffset, BitVec.reduceToNat]; omega)]
  by_cases c2 : 0x354 ≤ off.toNat ∧ off.toNat < 0x356
  · rw [byteIndex_inside (base := Config.clearDepthOffset) (n := 2) (b := 0x354) rfl c2]; exact .inr (.inl ⟨c2.1, c2.2, rfl⟩)
  rw [byteIndex_eq_none (base := Config.clearDepthOffset) (n := 2)
    (by simp only [Config.clearDepthOffset, BitVec.reduceToNat]; omega)]
  rcases hx : texByteIndex tex off with _ | k
  · have hn : ∀ t, tex = some t → ¬ (t.toNat ≤ off.toNat ∧ off.toNat ≤ t.toNat + 3) := by
      rintro t rfl h
      rw [texByteIndex_eq_some.2 ⟨t, rfl, h.1, h.2, rfl⟩] at hx
      cases hx
    by_cases c4 : 0x600 ≤ off.toNat ∧ off.toNat < 0x604
    · rw [byteIndex_inside (base := Config.gxstatOffset) (n := 4) (b := 0x600) rfl c4]
      exact .inr (.inr (.inr (.inl ⟨c4.1, c4.2, hn, rfl⟩)))
    · rw [byteIndex_eq_none (base := Config.gxstatOffset) (n := 4)
        (by simp only [Config.gxstatOffset, BitVec.reduceToNat]; omega)]
      exact .inr (.inr (.inr (.inr ⟨by omega, c4, hn, rfl⟩)))
  · obtain ⟨t, rfl, h1, h2, rfl⟩ := texByteIndex_eq_some.1 hx
    exact .inr (.inr (.inl ⟨t, rfl, by omega, h1, h2, rfl⟩))

/-- The registers of the IRQ page by ranges of offsets (R82). -/
theorem irqRegAt_cases (off : Offset) :
    (0x208 ≤ off.toNat ∧ off.toNat < 0x20C ∧ irqRegAt off = some (.masterEnable, off.toNat - 0x208)) ∨
    (0x210 ≤ off.toNat ∧ off.toNat < 0x214 ∧ irqRegAt off = some (.enable, off.toNat - 0x210)) ∨
    (0x214 ≤ off.toNat ∧ off.toNat < 0x218 ∧ irqRegAt off = some (.request, off.toNat - 0x214)) ∨
    (¬ (0x208 ≤ off.toNat ∧ off.toNat < 0x20C) ∧ ¬ (0x210 ≤ off.toNat ∧ off.toNat < 0x218) ∧
      irqRegAt off = none) := by
  unfold irqRegAt
  by_cases c1 : 0x208 ≤ off.toNat ∧ off.toNat < 0x20C
  · rw [byteIndex_inside (base := Config.masterEnableOffset) (n := 4) (b := 0x208) rfl c1]; exact .inl ⟨c1.1, c1.2, rfl⟩
  rw [byteIndex_eq_none (base := Config.masterEnableOffset) (n := 4)
    (by simp only [Config.masterEnableOffset, BitVec.reduceToNat]; omega)]
  by_cases c2 : 0x210 ≤ off.toNat ∧ off.toNat < 0x214
  · rw [byteIndex_inside (base := Config.enableOffset) (n := 4) (b := 0x210) rfl c2]; exact .inr (.inl ⟨c2.1, c2.2, rfl⟩)
  rw [byteIndex_eq_none (base := Config.enableOffset) (n := 4)
    (by simp only [Config.enableOffset, BitVec.reduceToNat]; omega)]
  by_cases c3 : 0x214 ≤ off.toNat ∧ off.toNat < 0x218
  · rw [byteIndex_inside (base := Config.requestOffset) (n := 4) (b := 0x214) rfl c3]; exact .inr (.inr (.inl ⟨c3.1, c3.2, rfl⟩))
  rw [byteIndex_eq_none (base := Config.requestOffset) (n := 4)
    (by simp only [Config.requestOffset, BitVec.reduceToNat]; omega)]
  exact .inr (.inr (.inr ⟨c1, by omega, rfl⟩))

/-- R81: where GXSTAT is. -/
theorem regAt_eq_gxstat {tex : Option Offset} {pg : Page} {off : Offset} {k : Nat}
    (h : regAt tex pg off = some (.gxstat, k)) : pg = .gx ∧ off.toNat = 0x600 + k ∧ k < 4 := by
  cases pg with
  | gx =>
    simp only [regAt, gxRegAt] at h
    split at h; · simp at h
    split at h; · simp at h
    split at h; · simp at h
    split at h
    · rename_i hk
      rw [byteIndex_eq_some] at hk
      simp only [Config.gxstatOffset, BitVec.reduceToNat] at hk
      simp only [Option.some.injEq, Prod.mk.injEq, true_and] at h
      exact ⟨rfl, by omega, by omega⟩
    · simp at h
  | irq =>
    simp only [regAt, irqRegAt] at h
    split at h; · simp at h
    split at h; · simp at h
    split at h <;> simp at h

/-- R82: where Request is. -/
theorem regAt_eq_request {tex : Option Offset} {pg : Page} {off : Offset} {k : Nat}
    (h : regAt tex pg off = some (.request, k)) : pg = .irq ∧ off.toNat = 0x214 + k ∧ k < 4 := by
  cases pg with
  | gx =>
    simp only [regAt, gxRegAt] at h
    split at h; · simp at h
    split at h; · simp at h
    split at h; · simp at h
    split at h <;> simp at h
  | irq =>
    simp only [regAt, irqRegAt] at h
    split at h; · simp at h
    split at h; · simp at h
    split at h
    · rename_i hk
      rw [byteIndex_eq_some] at hk
      simp only [Config.requestOffset, BitVec.reduceToNat] at hk
      simp only [Option.some.injEq, Prod.mk.injEq, true_and] at h
      exact ⟨rfl, by omega, by omega⟩
    · simp at h

/-- A register's byte has one offset (R81, R82). -/
theorem regAt_inj {tex : Option Offset} {pg pg' : Page} {off off' : Offset} {r : Register} {k : Nat}
    (h : regAt tex pg off = some (r, k)) (h' : regAt tex pg' off' = some (r, k)) : pg = pg' ∧ off = off' := by
  have key : ∀ {a b : Offset}, a.toNat = b.toNat → a = b := fun h => BitVec.eq_of_toNat_eq h
  cases pg <;> cases pg' <;> simp only [regAt] at h h'
  · rcases gxRegAt_cases tex off with ⟨a, b, e⟩ | ⟨a, b, e⟩ | ⟨t, ht, _, a, b, e⟩ | ⟨a, b, _, e⟩ | ⟨_, _, _, e⟩ <;>
      rcases gxRegAt_cases tex off' with ⟨a', b', e'⟩ | ⟨a', b', e'⟩ | ⟨t', ht', _, a', b', e'⟩ | ⟨a', b', _, e'⟩ | ⟨_, _, _, e'⟩ <;>
      rw [e] at h <;> rw [e'] at h' <;> simp only [Option.some.injEq, Prod.mk.injEq, reduceCtorEq] at h h' <;>
      obtain ⟨rfl, rfl⟩ := h <;> simp only [reduceCtorEq, false_and, true_and] at h' <;>
      refine ⟨rfl, key ?_⟩
    · omega
    · omega
    · rw [ht, Option.some.injEq] at ht'; subst ht'; omega
    · omega
  · rcases gxRegAt_cases tex off with ⟨a, b, e⟩ | ⟨a, b, e⟩ | ⟨t, ht, _, a, b, e⟩ | ⟨a, b, _, e⟩ | ⟨_, _, _, e⟩ <;>
      rcases irqRegAt_cases off' with ⟨a', b', e'⟩ | ⟨a', b', e'⟩ | ⟨a', b', e'⟩ | ⟨_, _, e'⟩ <;>
      rw [e] at h <;> rw [e'] at h' <;> simp only [Option.some.injEq, Prod.mk.injEq, reduceCtorEq] at h h' <;>
      obtain ⟨rfl, rfl⟩ := h <;> simp only [reduceCtorEq, false_and] at h'
  · rcases gxRegAt_cases tex off' with ⟨a, b, e⟩ | ⟨a, b, e⟩ | ⟨t, ht, _, a, b, e⟩ | ⟨a, b, _, e⟩ | ⟨_, _, _, e⟩ <;>
      rcases irqRegAt_cases off with ⟨a', b', e'⟩ | ⟨a', b', e'⟩ | ⟨a', b', e'⟩ | ⟨_, _, e'⟩ <;>
      rw [e] at h' <;> rw [e'] at h <;> simp only [Option.some.injEq, Prod.mk.injEq, reduceCtorEq] at h h' <;>
      obtain ⟨rfl, rfl⟩ := h <;> simp only [reduceCtorEq, false_and] at h'
  · rcases irqRegAt_cases off with ⟨a, b, e⟩ | ⟨a, b, e⟩ | ⟨a, b, e⟩ | ⟨_, _, e⟩ <;>
      rcases irqRegAt_cases off' with ⟨a', b', e'⟩ | ⟨a', b', e'⟩ | ⟨a', b', e'⟩ | ⟨_, _, e'⟩ <;>
      rw [e] at h <;> rw [e'] at h' <;> simp only [Option.some.injEq, Prod.mk.injEq, reduceCtorEq] at h h' <;>
      obtain ⟨rfl, rfl⟩ := h <;> simp only [reduceCtorEq, false_and, true_and] at h' <;>
      refine ⟨rfl, key ?_⟩ <;> omega

/-- The GX registers that only store what is written (R23-R25), and their byte indexes. -/
theorem regAt_gx_plain {tex : Option Offset} {off : Offset} {r : Register} {k : Nat}
    (h : regAt tex .gx off = some (r, k)) (hr : r ≠ .gxstat) :
    (r = .clearColor ∧ k < 4) ∨ (r = .clearDepth ∧ k < 2) ∨ (r = .texParams ∧ k < 4) := by
  simp only [regAt] at h
  rcases gxRegAt_cases tex off with ⟨a, b, e⟩ | ⟨a, b, e⟩ | ⟨t, ht, _, a, b, e⟩ | ⟨a, b, _, e⟩ | ⟨_, _, _, e⟩ <;>
    rw [e] at h <;> simp only [Option.some.injEq, Prod.mk.injEq, reduceCtorEq] at h <;> obtain ⟨rfl, rfl⟩ := h
  · exact .inl ⟨rfl, by omega⟩
  · exact .inr (.inl ⟨rfl, by omega⟩)
  · exact .inr (.inr ⟨rfl, by omega⟩)
  · exact absurd rfl hr

end Sys2Proof.Machine
end

