-- ==== Sys2Proof/Laws/Bus.lean ====
section
/-! SUPPORT. Bytes of a register, and all a bus access can do. -/

namespace Sys2Proof.Machine

/-! ### Bytes -/

/-- The bits of a byte's mask. -/
theorem ofNat_ff_getLsbD (w i : Nat) : (BitVec.ofNat w 0xFF).getLsbD i = (decide (i < w) && decide (i < 8)) := by
  rw [BitVec.getLsbD_ofNat]
  congr 1
  by_cases h : i < 8
  · interval_cases i <;> rfl
  · have : Nat.testBit 255 i = false := Nat.testBit_lt_two_pow (lt_of_lt_of_le (by norm_num : 255 < 2 ^ 8) (Nat.pow_le_pow_right (by omega) (by omega)))
    simp [this, h]

/-- Bit `i` of a word with byte `k` replaced (R153). -/
theorem setByte_getLsbD {w : Nat} (x : BitVec w) (k : Nat) (v : Byte) {i : Nat} (hi : i < w) :
    (setByte x k v).getLsbD i = if 8 * k ≤ i ∧ i < 8 * k + 8 then v.getLsbD (i - 8 * k) else x.getLsbD i := by
  simp only [setByte, BitVec.getLsbD_or, BitVec.getLsbD_and, BitVec.getLsbD_not, BitVec.getLsbD_shiftLeft,
    ofNat_ff_getLsbD, BitVec.getLsbD_setWidth, hi, decide_true, Bool.true_and]
  by_cases h1 : i < 8 * k
  · have : ¬ (8 * k ≤ i ∧ i < 8 * k + 8) := by omega
    simp [h1, this]
  · by_cases h2 : i < 8 * k + 8
    · have a : i - 8 * k < w := by omega
      have b : i - 8 * k < 8 := by omega
      have c : 8 * k ≤ i ∧ i < 8 * k + 8 := by omega
      simp [h1, a, b, c]
    · have b : ¬ i - 8 * k < 8 := by omega
      have c : ¬ (8 * k ≤ i ∧ i < 8 * k + 8) := by omega
      have d : v.getLsbD (i - 8 * k) = false := BitVec.getLsbD_of_ge _ _ (by omega)
      simp [h1, b, c, d]

/-- The byte replaced reads as the byte written; every other byte reads as before. -/
theorem getByte_setByte {w : Nat} (x : BitVec w) {k j : Nat} (v : Byte) (hk : 8 * k + 8 ≤ w)  :
    getByte (setByte x k v) j = if j = k then v else getByte x j := by
  apply BitVec.eq_of_getLsbD_eq
  intro i hi
  simp only [getByte, BitVec.getLsbD_extractLsb', hi, decide_true, Bool.true_and]
  by_cases hw : 8 * j + i < w
  · rw [setByte_getLsbD x k v hw]
    by_cases h : j = k
    · subst h
      rw [if_pos (by omega)]; simp
    · rw [if_neg (by omega), if_neg h]; simp [hi]
  · have h : ¬ j = k := by omega
    rw [if_neg h, BitVec.getLsbD_extractLsb', BitVec.getLsbD_of_ge _ _ (by omega), BitVec.getLsbD_of_ge _ _ (by omega)]
    simp

/-- A write of a plain register is read back, and every other byte reads as before. -/
theorem readReg_writeReg {d : Nat} {r r' : Register} {k k' : Nat} {v : Byte} {b : Blk}
    (h : (r = .clearColor ∧ k < 4) ∨ (r = .clearDepth ∧ k < 2) ∨ (r = .texParams ∧ k < 4)) :
    readReg r' k' (writeReg d r k v b) = if r' = r ∧ k' = k then v else readReg r' k' b := by
  rcases h with ⟨rfl, h⟩ | ⟨rfl, h⟩ | ⟨rfl, h⟩ <;>
    cases r' <;> simp only [readReg, writeReg, reduceCtorEq, false_and, if_false, true_and] <;>
    first | rfl | exact getByte_setByte _ _ (by omega)

/-- `MASK14` as a truncation (R291). -/
theorem setWidth_32_mask14 (x : Word) : (x.setWidth 14).setWidth 32 = x &&& 0x00003FFF := by
  apply BitVec.eq_of_getLsbD_eq
  intro i hi
  have h : (0x00003FFF : Word).getLsbD i = decide (i < 14) := by interval_cases i <;> rfl
  rw [BitVec.getLsbD_setWidth, BitVec.getLsbD_setWidth, BitVec.getLsbD_and, h]
  simp only [hi, decide_true, Bool.true_and]
  rw [Bool.and_comm]

/-- The one bit of MasterEnable as a truncation (R293). -/
theorem setWidth_32_mask1 (x : Word) : (x.setWidth 1).setWidth 32 = x &&& 0x00000001 := by
  apply BitVec.eq_of_getLsbD_eq
  intro i hi
  have h : (0x00000001 : Word).getLsbD i = decide (i < 1) := by interval_cases i <;> rfl
  rw [BitVec.getLsbD_setWidth, BitVec.getLsbD_setWidth, BitVec.getLsbD_and, h]
  simp only [hi, decide_true, Bool.true_and]
  rw [Bool.and_comm]

/-- A bit of a register with one bit set (R268, R297). -/
theorem or_bit_getLsbD (x : BitVec 14) (n j : Nat) (hj : j < 14) :
    (x ||| ((1 : BitVec 14) <<< n)).getLsbD j = (x.getLsbD j || decide (j = n)) := by
  simp only [BitVec.getLsbD_or, BitVec.getLsbD_shiftLeft, hj, decide_true, Bool.true_and]
  congr 1
  by_cases h : j = n
  · subst h; simp
  · by_cases h2 : j < n
    · simp [h2, h]
    · have : ¬ (j - n = 0) := by omega
      simp [h2, h, this]

/-! ### Accesses -/

/-- R150: a read of a mapped offset. -/
theorem busRead_mapped {s : State} {pg : Page} {sel : PageSel} {off : Offset} {r : Register} {k : Nat}
    (hs : sel = s.cfg.selector pg) (hr : regAt s.cfg.texOffset pg off = some (r, k)) :
    s.busRead pg (addrOf sel off) = s.ok s.blk (.byte (readReg r k s.blk)) := by
  simp [State.busRead, hs, hr]

/-- R87: a read of an unmapped offset. -/
theorem busRead_unmapped {s : State} {pg : Page} {sel : PageSel} {off : Offset}
    (hs : sel = s.cfg.selector pg) (hr : regAt s.cfg.texOffset pg off = none) :
    s.busRead pg (addrOf sel off) =
      s.ok (s.blk.emitDiag .unmappedRead (addrOf sel off)) (.byte 0) := by
  simp [State.busRead, hs, hr]

/-- R86: a read on the wrong page. -/
theorem busRead_wrongPage {s : State} {pg : Page} {addr : Addr}
    (h : Addr.selector addr ≠ s.cfg.selector pg) :
    s.busRead pg addr = s.raiseFault (.wiring addr) := by
  simp [State.busRead, h]

/-- R151: a write of a mapped offset. -/
theorem busWrite_mapped {s : State} {pg : Page} {sel : PageSel} {off : Offset} {r : Register} {k : Nat}
    {v : Byte} (hs : sel = s.cfg.selector pg) (hr : regAt s.cfg.texOffset pg off = some (r, k)) :
    s.busWrite pg (addrOf sel off) v = s.ok (writeReg s.cfg.gxIrqDelay r k v s.blk) .done := by
  simp [State.busWrite, hs, hr]

/-- R87: a write of an unmapped offset. -/
theorem busWrite_unmapped {s : State} {pg : Page} {sel : PageSel} {off : Offset} {v : Byte}
    (hs : sel = s.cfg.selector pg) (hr : regAt s.cfg.texOffset pg off = none) :
    s.busWrite pg (addrOf sel off) v =
      s.ok (s.blk.emitDiag .unmappedWrite (addrOf sel off)) .done := by
  simp [State.busWrite, hs, hr]

/-- R86: a write on the wrong page. -/
theorem busWrite_wrongPage {s : State} {pg : Page} {addr : Addr} {v : Byte}
    (h : Addr.selector addr ≠ s.cfg.selector pg) :
    s.busWrite pg addr v = s.raiseFault (.wiring addr) := by
  simp [State.busWrite, h]

/-- All a bus read can do. -/
theorem busRead_cases (pg : Page) (addr : Addr) (s : State) :
    (∃ v, s.busRead pg addr = s.ok s.blk (.byte v)) ∨
    s.busRead pg addr = s.ok (s.blk.emitDiag .unmappedRead addr) (.byte 0) ∨
    s.busRead pg addr = s.raiseFault (.wiring addr) := by
  unfold State.busRead
  split
  · split
    · exact .inl ⟨_, rfl⟩
    · exact .inr (.inl rfl)
  · exact .inr (.inr rfl)

/-- All a bus write can do. -/
theorem busWrite_cases (pg : Page) (addr : Addr) (v : Byte) (s : State) :
    (∃ r k, regAt s.cfg.texOffset pg (Addr.offset addr) = some (r, k) ∧
      s.busWrite pg addr v = s.ok (writeReg s.cfg.gxIrqDelay r k v s.blk) .done) ∨
    s.busWrite pg addr v = s.ok (s.blk.emitDiag .unmappedWrite addr) .done ∨
    s.busWrite pg addr v = s.raiseFault (.wiring addr) := by
  unfold State.busWrite
  split
  · split
    · rename_i r k h; exact .inl ⟨r, k, h, rfl⟩
    · exact .inr (.inl rfl)
  · exact .inr (.inr rfl)

/-- R159: a GXSTAT write changes the flags and IRQ_MODE, then recomputes. -/
theorem writeGxstat_frame (d k : Nat) (v : Byte) (b : Blk) :
    ∃ u o m, writeGxstat d k v b = Blk.recompute d { b with underflow := u, overflow := o, irqMode := m } := by
  unfold writeGxstat
  split
  · exact ⟨_, _, _, rfl⟩
  · split
    · exact ⟨_, _, _, rfl⟩
    · exact ⟨_, _, _, rfl⟩

end Sys2Proof.Machine
end

