-- ==== Sys2Proof/Laws/Decode.lean ====
section
/-! SUPPORT. The decoder: the masks of R119 as ranges, the decode map against the register map, tags and port codes. -/

namespace Sys2Proof.Machine

/-! ### The masks, in numbers -/

/-- The mask of a four-byte row (R119). -/
theorem busWord_and_3FFC (w c : BusWord) : w &&& 0x3FFC = c ↔ w.toNat / 4 * 4 = c.toNat := by
  have h : w &&& (0x3FFC : BusWord) = (w >>> 2) <<< 2 := by ext i hi; interval_cases i <;> simp
  have hw := w.isLt
  rw [h, ← BitVec.toNat_inj, BitVec.toNat_shiftLeft, BitVec.toNat_ushiftRight,
    Nat.shiftLeft_eq, Nat.shiftRight_eq_div_pow, Nat.mod_eq_of_lt (by omega)]

/-- The mask of a two-byte row (R119). -/
theorem busWord_and_3FFE (w c : BusWord) : w &&& 0x3FFE = c ↔ w.toNat / 2 * 2 = c.toNat := by
  have h : w &&& (0x3FFE : BusWord) = (w >>> 1) <<< 1 := by ext i hi; interval_cases i <;> simp
  have hw := w.isLt
  rw [h, ← BitVec.toNat_inj, BitVec.toNat_shiftLeft, BitVec.toNat_ushiftRight,
    Nat.shiftLeft_eq, Nat.shiftRight_eq_div_pow, Nat.mod_eq_of_lt (by omega)]

/-- The mask of a whole page and direction (R119). -/
theorem busWord_and_3000 (w c : BusWord) : w &&& 0x3000 = c ↔ w.toNat / 4096 * 4096 = c.toNat := by
  have h : w &&& (0x3000 : BusWord) = (w >>> 12) <<< 12 := by ext i hi; interval_cases i <;> simp
  have hw := w.isLt
  rw [h, ← BitVec.toNat_inj, BitVec.toNat_shiftLeft, BitVec.toNat_ushiftRight,
    Nat.shiftLeft_eq, Nat.shiftRight_eq_div_pow, Nat.mod_eq_of_lt (by omega)]

/-- A direction bit in front of an offset (R119). -/
theorem or_append_offset (c : BitVec 2) (t : Offset) :
    (((c ++ 0#12 : BitVec (2 + 12)) : BusWord) ||| t.setWidth 14).toNat = c.toNat * 4096 + t.toNat := by
  have h : t.setWidth 14 = ((0#2 ++ t : BitVec (2 + 12)) : BusWord) := by
    apply BitVec.eq_of_toNat_eq
    have := t.isLt
    rw [BitVec.toNat_append, BitVec.toNat_setWidth, Nat.mod_eq_of_lt (by omega)]
    simp
  have h2 : ((c ++ 0#12 : BitVec (2 + 12)) ||| (0#2 ++ t : BitVec (2 + 12))) = c ++ t := by
    rw [BitVec.or_append]; simp
  rw [h]
  have e : (((c ++ 0#12 : BitVec (2 + 12)) : BusWord) ||| ((0#2 ++ t : BitVec (2 + 12)) : BusWord)).toNat
    = (c ++ t : BitVec (2+12)).toNat := congrArg BitVec.toNat h2
  rw [e, BitVec.toNat_append, Nat.shiftLeft_eq]
  rw [Nat.mul_comm, ← Nat.two_pow_add_eq_or_of_lt t.isLt]

/-- R119's fifth row. -/
theorem texRowMatches_read (tex : Option Offset) (w : BusWord) :
    texRowMatches tex 0x0000 w = true ↔ ∃ t, tex = some t ∧ w.toNat / 4 * 4 = t.toNat := by
  cases tex with
  | none => simp [texRowMatches]
  | some t =>
    have := or_append_offset 0 t
    simp only [texRowMatches, beq_iff_eq, busWord_and_3FFC, Option.some.injEq, exists_eq_left']
    rw [show (0x0000 : BusWord) = ((0#2 ++ 0#12 : BitVec (2 + 12)) : BusWord) by decide]
    erw [this]; simp

/-- R119's sixth row. -/
theorem texRowMatches_write (tex : Option Offset) (w : BusWord) :
    texRowMatches tex 0x1000 w = true ↔ ∃ t, tex = some t ∧ w.toNat / 4 * 4 = 4096 + t.toNat := by
  cases tex with
  | none => simp [texRowMatches]
  | some t =>
    have := or_append_offset 1 t
    simp only [texRowMatches, beq_iff_eq, busWord_and_3FFC, Option.some.injEq, exists_eq_left']
    rw [show (0x1000 : BusWord) = ((1#2 ++ 0#12 : BitVec (2 + 12)) : BusWord) by decide]
    erw [this]; simp

/-! ### The access word -/

/-- The page and direction bits in front of an offset (R118). -/
def busWordOf (pg : Page) (wr : Bool) (off : Offset) : BusWord :=
  ((match pg with | .gx => 0#1 | .irq => 1#1) ++ (if wr then 1#1 else 0#1)) ++ off

/-- The access word as a number (R118). -/
theorem toNat_busWordOf (pg : Page) (wr : Bool) (off : Offset) :
    (busWordOf pg wr off).toNat =
      (match pg with | .gx => 0 | .irq => 8192) + (if wr then 4096 else 0) + off.toNat := by
  have : ∀ a : BitVec (1 + 1), (a ++ off : BitVec (1 + 1 + 12)).toNat = a.toNat * 4096 + off.toNat := by
    intro a
    rw [BitVec.toNat_append, Nat.shiftLeft_eq, Nat.mul_comm, ← Nat.two_pow_add_eq_or_of_lt off.isLt]
  unfold busWordOf
  erw [this]
  cases pg <;> cases wr <;> simp

/-- The offset of an access word (R118). -/
theorem offset_busWordOf (pg : Page) (wr : Bool) (off : Offset) :
    BusWord.offset (busWordOf pg wr off) = off := by
  apply BitVec.eq_of_toNat_eq
  have := off.isLt
  rw [BusWord.offset, BitVec.extractLsb'_toNat, toNat_busWordOf]
  cases pg <;> cases wr <;> simp <;> omega

/-- An access word is its page, direction and offset (R118). -/
theorem busWordOf_offset (w : BusWord) :
    busWordOf (if w.getLsbD 13 then .irq else .gx) (w.getLsbD 12) (BusWord.offset w) = w := by
  apply BitVec.eq_of_toNat_eq
  have hw := w.isLt
  rw [toNat_busWordOf, BusWord.offset, BitVec.extractLsb'_toNat]
  have h13 : w.getLsbD 13 = decide (w.toNat / 8192 % 2 = 1) := by
    rw [BitVec.getLsbD, Nat.testBit_eq_decide_div_mod_eq]
  have h12 : w.getLsbD 12 = decide (w.toNat / 4096 % 2 = 1) := by
    rw [BitVec.getLsbD, Nat.testBit_eq_decide_div_mod_eq]
  rw [h13, h12]
  simp only [Nat.shiftRight_zero]
  by_cases a : w.toNat / 8192 % 2 = 1 <;> by_cases b : w.toNat / 4096 % 2 = 1 <;> simp [a, b] <;> omega

/-! ### The BUS rows -/

/-- The operation at an offset of a page (R81, R82, R119): `wr` is the direction bit. -/
def busInstr (tex : Option Offset) (pg : Page) (wr : Bool) (sel : PageSel) (off : Offset) (v : Byte) :
    Instr :=
  match regAt tex pg off, wr, pg with
  | some (.clearColor, k), false, _ => .rd8ClearColor sel (BitVec.ofNat 2 k)
  | some (.clearColor, k), true, _ => .wr8ClearColor sel (BitVec.ofNat 2 k) v
  | some (.clearDepth, k), false, _ => .rd8ClearDepth sel (BitVec.ofNat 1 k)
  | some (.clearDepth, k), true, _ => .wr8ClearDepth sel (BitVec.ofNat 1 k) v
  | some (.texParams, _), false, _ => .rd8TextureParams sel off
  | some (.texParams, _), true, _ => .wr8TextureParams sel off v
  | some (.gxstat, k), false, _ => .rd8Gxstat sel (BitVec.ofNat 2 k)
  | some (.gxstat, k), true, _ => .wr8Gxstat sel (BitVec.ofNat 2 k) v
  | some (.masterEnable, k), false, _ => .rd8MasterEnable sel (BitVec.ofNat 2 k)
  | some (.masterEnable, k), true, _ => .wr8MasterEnable sel (BitVec.ofNat 2 k) v
  | some (.enable, k), false, _ => .rd8Enable sel (BitVec.ofNat 2 k)
  | some (.enable, k), true, _ => .wr8Enable sel (BitVec.ofNat 2 k) v
  | some (.request, k), false, _ => .rd8Request sel (BitVec.ofNat 2 k)
  | some (.request, k), true, _ => .wr8Request sel (BitVec.ofNat 2 k) v
  | none, false, .gx => .rd8GxUnmapped sel off
  | none, true, .gx => .wr8GxUnmapped sel off v
  | none, false, .irq => .rd8IrqUnmapped sel off
  | none, true, .irq => .wr8IrqUnmapped sel off v

/-- The decoder's table is the register map (R119 against R150). -/
theorem decodeBusWord_eq {tex : Option Offset} {pg : Page}
    (ht : pg = .gx → texOffsetLegal tex = true) (wr : Bool) (sel : PageSel) (off : Offset) (v : Byte) :
    decodeBusWord tex (busWordOf pg wr off) sel v = busInstr tex pg wr sel off v := by
  have hw := toNat_busWordOf pg wr off
  have ho := offset_busWordOf pg wr off
  have hoff := off.isLt
  have e2 : (busWordOf pg wr off).extractLsb' 0 2 = BitVec.ofNat 2 off.toNat := by
    apply BitVec.eq_of_toNat_eq
    rw [BitVec.extractLsb'_toNat, hw, BitVec.toNat_ofNat]
    cases pg <;> cases wr <;> simp <;> omega
  have e1 : (busWordOf pg wr off).extractLsb' 0 1 = BitVec.ofNat 1 off.toNat := by
    apply BitVec.eq_of_toNat_eq
    rw [BitVec.extractLsb'_toNat, hw, BitVec.toNat_ofNat]
    cases pg <;> cases wr <;> simp <;> omega
  simp only [decodeBusWord, busWord_and_3FFC, busWord_and_3FFE, busWord_and_3000, texRowMatches_read,
    texRowMatches_write, ho, e1, e2, hw]
  clear ho e1 e2 hw
  simp only [BitVec.reduceToNat]
  cases pg with
  | irq =>
    have hx : ∀ c : Nat, c ≤ 4096 →
        ¬ ∃ t, tex = some t ∧ (8192 + (if wr then 4096 else 0) + off.toNat) / 4 * 4 = c + t.toNat := by
      rintro c hc ⟨t, -, h⟩
      have := t.isLt
      cases wr <;> simp at h <;> omega
    have hx0 := hx 0 (by omega)
    have hx1 := hx 4096 (by omega)
    simp only [Nat.zero_add] at hx0
    rcases irqRegAt_cases off with ⟨h1, h2, h⟩ | ⟨h1, h2, h⟩ | ⟨h1, h2, h⟩ | ⟨h1, h2, h⟩ <;>
      cases wr <;> simp only [busInstr, regAt, h, Bool.false_eq_true, if_false, if_true, Nat.add_zero] at hx0 hx1 ⊢ <;>
      rw [if_neg (by omega), if_neg (by omega), if_neg (by omega), if_neg (by omega), if_neg hx0, if_neg hx1,
        if_neg (by omega), if_neg (by omega), if_neg (by omega), if_neg (by omega)]
    · rw [if_pos (by omega)]; rw [ofNat_eq_ofNat (m := off.toNat - 0x208) (by omega)]
    · rw [if_neg (by omega), if_pos (by omega)]; rw [ofNat_eq_ofNat (m := off.toNat - 0x208) (by omega)]
    · rw [if_neg (by omega), if_neg (by omega), if_pos (by omega)]; rw [ofNat_eq_ofNat (m := off.toNat - 0x210) (by omega)]
    · rw [if_neg (by omega), if_neg (by omega), if_neg (by omega), if_pos (by omega)]; rw [ofNat_eq_ofNat (m := off.toNat - 0x210) (by omega)]
    · rw [if_neg (by omega), if_neg (by omega), if_neg (by omega), if_neg (by omega), if_pos (by omega)]; rw [ofNat_eq_ofNat (m := off.toNat - 0x214) (by omega)]
    · rw [if_neg (by omega), if_neg (by omega), if_neg (by omega), if_neg (by omega), if_neg (by omega), if_pos (by omega)]; rw [ofNat_eq_ofNat (m := off.toNat - 0x214) (by omega)]
    · rw [if_neg (by omega), if_neg (by omega), if_neg (by omega), if_neg (by omega), if_neg (by omega), if_neg (by omega), if_pos (by omega)]
    · rw [if_neg (by omega), if_neg (by omega), if_neg (by omega), if_neg (by omega), if_neg (by omega), if_neg (by omega), if_neg (by omega)]
  | gx =>
    replace ht := ht rfl
    rcases gxRegAt_cases tex off with ⟨h1, h2, h⟩ | ⟨h1, h2, h⟩ | ⟨t, rfl, h0, h1, h2, h⟩ | ⟨h1, h2, ht', h⟩ |
      ⟨h1, h2, ht', h⟩
    · cases wr <;> simp only [busInstr, regAt, h, Bool.false_eq_true, if_false, if_true, Nat.add_zero, Nat.zero_add]
      · rw [if_pos (by omega)]; rw [ofNat_eq_ofNat (m := off.toNat - 0x350) (by omega)]
      · rw [if_neg (by omega), if_pos (by omega)]; rw [ofNat_eq_ofNat (m := off.toNat - 0x350) (by omega)]
    · cases wr <;> simp only [busInstr, regAt, h, Bool.false_eq_true, if_false, if_true, Nat.add_zero, Nat.zero_add]
      · rw [if_neg (by omega), if_neg (by omega), if_pos (by omega)]; rw [ofNat_eq_ofNat (m := off.toNat - 0x354) (by omega)]
      · rw [if_neg (by omega), if_neg (by omega), if_neg (by omega), if_pos (by omega)]; rw [ofNat_eq_ofNat (m := off.toNat - 0x354) (by omega)]
    · rw [texOffsetLegal_some] at ht
      cases wr <;> simp only [busInstr, regAt, h, Bool.false_eq_true, if_false, if_true, Nat.add_zero, Nat.zero_add,
        Option.some.injEq, exists_eq_left'] <;>
        rw [if_neg (by omega), if_neg (by omega), if_neg (by omega), if_neg (by omega)]
      · rw [if_pos (by omega)]
      · rw [if_neg (by omega), if_pos (by omega)]
    all_goals
      have hx : ∀ c : Nat, c = 0 ∨ c = 4096 →
          ¬ ∃ t, tex = some t ∧ (0 + (if wr then 4096 else 0) + off.toNat) / 4 * 4 = c + t.toNat := by
        rintro c hc ⟨t, rfl, h⟩
        have hn := ht' t rfl
        have := t.isLt
        rw [texOffsetLegal_some] at ht
        cases wr <;> simp at h <;> omega
      have hx0 := hx 0 (by omega)
      have hx1 := hx 4096 (by omega)
      clear hx
      cases wr <;> simp only [busInstr, regAt, h, Bool.false_eq_true, if_false, if_true, Nat.add_zero, Nat.zero_add] at hx0 hx1 ⊢ <;>
      rw [if_neg (by omega), if_neg (by omega), if_neg (by omega), if_neg (by omega), if_neg hx0, if_neg hx1]
    · rw [if_pos (by omega)]; rw [ofNat_eq_ofNat (m := off.toNat - 0x600) (by omega)]
    · rw [if_neg (by omega), if_pos (by omega)]; rw [ofNat_eq_ofNat (m := off.toNat - 0x600) (by omega)]
    · rw [if_neg (by omega), if_neg (by omega), if_pos (by omega)]
    · rw [if_neg (by omega), if_neg (by omega), if_neg (by omega), if_pos (by omega)]

/-- Decoding an access word with its address (R118, R119). -/
theorem decode_busWordOf {tex : Option Offset} {pg : Page}
    (ht : pg = .gx → texOffsetLegal tex = true) (wr : Bool) (sel : PageSel) (off : Offset) (v : Byte) :
    decode tex (.bus (busWordOf pg wr off) (addrOf sel off) v) = .ok (busInstr tex pg wr sel off v) := by
  simp only [decode, offset_busWordOf, offset_addrOf, selector_addrOf, if_true, decodeBusWord_eq ht]

/-- What `busInstr` chooses, register by register. -/
theorem busInstr_spec (tex : Option Offset) (pg : Page) (wr : Bool) (sel : PageSel) (off : Offset)
    (v : Byte) :
    busAccess (busInstr tex pg wr sel off v) = some (pg, addrOf sel off, if wr then some v else none) ∧
    encode (busInstr tex pg wr sel off v) =
      .bus (busWordOf pg wr off) (addrOf sel off) (if wr then v else 0) ∧
    (busInstr tex pg wr sel off v).inRow tex = true := by
  cases pg with
  | gx =>
    rcases gxRegAt_cases tex off with ⟨h1, h2, h⟩ | ⟨h1, h2, h⟩ | ⟨t, rfl, h0, h1, h2, h⟩ | ⟨h1, h2, ht', h⟩ |
      ⟨h1, h2, ht', h⟩
    · have e := offsetOf_ofNat (w := 2) (base := 0x350) (off := off) (b := 0x350) rfl (by decide) ⟨h1, h2⟩
      cases wr <;> simp only [busInstr, regAt, h, busAccess, encode, e] <;> exact ⟨rfl, rfl, rfl⟩
    · have e := offsetOf_ofNat (w := 1) (base := 0x354) (off := off) (b := 0x354) rfl (by decide) ⟨h1, h2⟩
      cases wr <;> simp only [busInstr, regAt, h, busAccess, encode, e] <;> exact ⟨rfl, rfl, rfl⟩
    · have e : texByteIndex (some t) off = some (off.toNat - t.toNat) := by
        simp [texByteIndex, h1, h2]
      cases wr <;> simp only [busInstr, regAt, h, busAccess, encode] <;>
        exact ⟨rfl, rfl, by simp [Instr.inRow, e]⟩
    · have e := offsetOf_ofNat (w := 2) (base := 0x600) (off := off) (b := 0x600) rfl (by decide) ⟨h1, h2⟩
      cases wr <;> simp only [busInstr, regAt, h, busAccess, encode, e] <;> exact ⟨rfl, rfl, rfl⟩
    · cases wr <;> simp only [busInstr, regAt, h, busAccess, encode] <;>
        exact ⟨rfl, rfl, by simp [Instr.inRow, regAt, h]⟩
  | irq =>
    rcases irqRegAt_cases off with ⟨h1, h2, h⟩ | ⟨h1, h2, h⟩ | ⟨h1, h2, h⟩ | ⟨h1, h2, h⟩
    · have e := offsetOf_ofNat (w := 2) (base := 0x208) (off := off) (b := 0x208) rfl (by decide) ⟨h1, h2⟩
      cases wr <;> simp only [busInstr, regAt, h, busAccess, encode, e] <;> exact ⟨rfl, rfl, rfl⟩
    · have e := offsetOf_ofNat (w := 2) (base := 0x210) (off := off) (b := 0x210) rfl (by decide) ⟨h1, h2⟩
      cases wr <;> simp only [busInstr, regAt, h, busAccess, encode, e] <;> exact ⟨rfl, rfl, rfl⟩
    · have e := offsetOf_ofNat (w := 2) (base := 0x214) (off := off) (b := 0x214) rfl (by decide) ⟨h1, h2⟩
      cases wr <;> simp only [busInstr, regAt, h, busAccess, encode, e] <;> exact ⟨rfl, rfl, rfl⟩
    · cases wr <;> simp only [busInstr, regAt, h, busAccess, encode] <;>
        exact ⟨rfl, rfl, by simp [Instr.inRow, regAt, h]⟩

/-- Every BUS row is the operation at its own offset. -/
theorem eq_busInstr {tex : Option Offset} (ht : texOffsetLegal tex = true) {i : Instr} {pg : Page}
    {addr : Addr} {v : Option Byte} (hi : i.inRow tex = true) (hb : busAccess i = some (pg, addr, v)) :
    ∃ wr sel off v, i = busInstr tex pg wr sel off v ∧ (wr = false → v = 0) := by
  have htex : ∀ off, (texByteIndex tex off).isSome = true → ∃ k, regAt tex .gx off = some (.texParams, k) := by
    intro off ho
    obtain ⟨k, hk⟩ := Option.isSome_iff_exists.1 ho
    obtain ⟨t, rfl, h1, h2, rfl⟩ := texByteIndex_eq_some.1 hk
    rw [texOffsetLegal_some] at ht
    rcases gxRegAt_cases (some t) off with ⟨a, b, h⟩ | ⟨a, b, h⟩ | ⟨t', _, _, _, _, h⟩ | ⟨a, b, c, h⟩ |
      ⟨a, b, c, h⟩
    · omega
    · omega
    · exact ⟨_, h⟩
    · exact absurd ⟨h1, h2⟩ (c t rfl)
    · exact absurd ⟨h1, h2⟩ (c t rfl)
  cases i <;> simp only [busAccess, reduceCtorEq, Option.some.injEq, Prod.mk.injEq] at hb <;>
    obtain ⟨rfl, rfl, rfl⟩ := hb <;> simp only [Instr.inRow, Option.isNone_iff_eq_none] at hi
  case rd8ClearColor sel k =>
    exact ⟨false, sel, offsetOf Config.clearColorOffset k, 0, by simp [busInstr], fun _ => rfl⟩
  case wr8ClearColor sel k v =>
    exact ⟨true, sel, offsetOf Config.clearColorOffset k, v, by simp [busInstr], nofun⟩
  case rd8ClearDepth sel k =>
    exact ⟨false, sel, offsetOf Config.clearDepthOffset k, 0, by simp [busInstr], fun _ => rfl⟩
  case wr8ClearDepth sel k v =>
    exact ⟨true, sel, offsetOf Config.clearDepthOffset k, v, by simp [busInstr], nofun⟩
  case rd8TextureParams sel off =>
    obtain ⟨k, hk⟩ := htex off hi
    exact ⟨false, sel, off, 0, by simp [busInstr, hk], fun _ => rfl⟩
  case wr8TextureParams sel off v =>
    obtain ⟨k, hk⟩ := htex off hi
    exact ⟨true, sel, off, v, by simp [busInstr, hk], nofun⟩
  case rd8Gxstat sel k =>
    exact ⟨false, sel, offsetOf Config.gxstatOffset k, 0, by simp [busInstr, ht], fun _ => rfl⟩
  case wr8Gxstat sel k v =>
    exact ⟨true, sel, offsetOf Config.gxstatOffset k, v, by simp [busInstr, ht], nofun⟩
  case rd8GxUnmapped sel off => exact ⟨false, sel, off, 0, by simp [busInstr, hi], fun _ => rfl⟩
  case wr8GxUnmapped sel off v => exact ⟨true, sel, off, v, by simp [busInstr, hi], nofun⟩
  case rd8MasterEnable sel k =>
    exact ⟨false, sel, offsetOf Config.masterEnableOffset k, 0, by simp [busInstr], fun _ => rfl⟩
  case wr8MasterEnable sel k v =>
    exact ⟨true, sel, offsetOf Config.masterEnableOffset k, v, by simp [busInstr], nofun⟩
  case rd8Enable sel k =>
    exact ⟨false, sel, offsetOf Config.enableOffset k, 0, by simp [busInstr], fun _ => rfl⟩
  case wr8Enable sel k v =>
    exact ⟨true, sel, offsetOf Config.enableOffset k, v, by simp [busInstr], nofun⟩
  case rd8Request sel k =>
    exact ⟨false, sel, offsetOf Config.requestOffset k, 0, by simp [busInstr], fun _ => rfl⟩
  case wr8Request sel k v =>
    exact ⟨true, sel, offsetOf Config.requestOffset k, v, by simp [busInstr], nofun⟩
  case rd8IrqUnmapped sel off => exact ⟨false, sel, off, 0, by simp [busInstr, hi], fun _ => rfl⟩
  case wr8IrqUnmapped sel off v => exact ⟨true, sel, off, v, by simp [busInstr, hi], nofun⟩

/-! ### Tags and port codes -/

set_option maxRecDepth 4000 in
/-- The Opaque tags (R112). -/
theorem isOpaqueTag_iff : ∀ tag : Byte, isOpaqueTag tag = true ↔
    ¬tag = 0x10 ∧ ¬tag = 0x11 ∧ ¬tag = 0x12 ∧ ¬tag = 0x13 ∧ ¬tag = 0x14 ∧ ¬tag = 0x15 ∧ ¬tag = 0x16 ∧
    ¬tag = 0x17 ∧ ¬tag = 0x18 ∧ ¬tag = 0x19 ∧ ¬tag = 0x1A ∧ ¬tag = 0x1B ∧ ¬tag = 0x1C := by decide

set_option maxRecDepth 4000 in
/-- The port codes without an operation (R121). -/
theorem isPortCode_iff : ∀ c : Byte, (!isPortCode c) = true ↔
    ¬c = 0x01 ∧ ¬c = 0x02 ∧ ¬c = 0x03 ∧ ¬c = 0x04 ∧ ¬c = 0x05 ∧ ¬c = 0x06 := by decide

/-- What the tag decoder chooses (R112). -/
theorem decodeCmd_spec (tex : Option Offset) (e : Entry) :
    (decodeCmd e).inRow tex = true ∧ encode (decodeCmd e) = .cmd e := by
  obtain ⟨tag, ps⟩ := e
  by_cases h0 : tag = 0x10; · subst h0; exact ⟨rfl, rfl⟩
  by_cases h1 : tag = 0x11; · subst h1; exact ⟨rfl, rfl⟩
  by_cases h2 : tag = 0x12; · subst h2; exact ⟨rfl, rfl⟩
  by_cases h3 : tag = 0x13; · subst h3; exact ⟨rfl, rfl⟩
  by_cases h4 : tag = 0x14; · subst h4; exact ⟨rfl, rfl⟩
  by_cases h5 : tag = 0x15; · subst h5; exact ⟨rfl, rfl⟩
  by_cases h6 : tag = 0x16; · subst h6; exact ⟨rfl, rfl⟩
  by_cases h7 : tag = 0x17; · subst h7; exact ⟨rfl, rfl⟩
  by_cases h8 : tag = 0x18; · subst h8; exact ⟨rfl, rfl⟩
  by_cases h9 : tag = 0x19; · subst h9; exact ⟨rfl, rfl⟩
  by_cases h10 : tag = 0x1A; · subst h10; exact ⟨rfl, rfl⟩
  by_cases h11 : tag = 0x1B; · subst h11; exact ⟨rfl, rfl⟩
  by_cases h12 : tag = 0x1C; · subst h12; exact ⟨rfl, rfl⟩
  have h : decodeCmd ⟨tag, ps⟩ = .opaqueCmd tag ps := by
    simp only [decodeCmd, h0, h1, h2, h3, h4, h5, h6, h7, h8, h9, h10, h11, h12, if_false]
  rw [h]
  exact ⟨(isOpaqueTag_iff tag).2 ⟨h0, h1, h2, h3, h4, h5, h6, h7, h8, h9, h10, h11, h12⟩, rfl⟩

/-- What the port decoder chooses (R120, R121). -/
theorem decodePort_spec (tex : Option Offset) (c o : Byte) :
    (decodePort c o).inRow tex = true ∧ encode (decodePort c o) = canonical (.port c o) := by
  by_cases h0 : c = 0x01; · subst h0; exact ⟨rfl, rfl⟩
  by_cases h1 : c = 0x02; · subst h1; exact ⟨rfl, rfl⟩
  by_cases h2 : c = 0x03; · subst h2; exact ⟨rfl, rfl⟩
  by_cases h3 : c = 0x04; · subst h3; exact ⟨rfl, rfl⟩
  by_cases h4 : c = 0x05; · subst h4; exact ⟨rfl, rfl⟩
  by_cases h5 : c = 0x06; · subst h5; exact ⟨rfl, rfl⟩
  have h : decodePort c o = .refusedPort c := by
    simp only [decodePort, h0, h1, h2, h3, h4, h5, if_false]
  rw [h]
  exact ⟨(isPortCode_iff c).2 ⟨h0, h1, h2, h3, h4, h5⟩, by
    simp only [encode, canonical, h2, h3, or_self, if_false]⟩

/-- R112: an accepted entry decodes to its operation. -/
theorem accepts_decode {i : Instr} {e : Entry} (h : Accepts i e) : decodeCmd e = i := by
  cases h with
  | opaqueCmd tag ps h =>
    obtain ⟨h1, h2, h3, h4, h5, h6, h7, h8, h9, h10, h11, h12, h13⟩ := (isOpaqueTag_iff tag).1 h
    simp only [decodeCmd, h1, h2, h3, h4, h5, h6, h7, h8, h9, h10, h11, h12, h13, if_false]
  | _ => rfl

end Sys2Proof.Machine
end

