-- ==== Sys2Proof/Laws/Engine.lean ====
section
/-! SUPPORT. The matrix engine: what each shared operation changes, and the frame of a command. -/

namespace Sys2Proof.Machine

/-! ### Targets, saves and restores -/

/-- R42: every slot below the capacity exists. -/
theorem slot_of_lt_cap (b : Blk) {i : Nat} (h : i < b.mode.cap) {c : MatrixClass}
    (hc : c ∈ b.mode.saved) : ∃ m, b.slot c i = some m := by
  cases hm : b.mode <;> simp only [hm, Mode.saved, List.mem_cons, List.not_mem_nil, or_false] at hc <;>
    simp only [hm, Mode.cap, Config.projCap, Config.pvCap, Config.texCap] at h
  · subst hc; exact ⟨b.projStack[i], by simp [Blk.slot, h]⟩
  · rcases hc with rfl | rfl
    · exact ⟨b.posStack[i], by simp [Blk.slot, h]⟩
    · exact ⟨b.vecStack[i], by simp [Blk.slot, h]⟩
  · rcases hc with rfl | rfl
    · exact ⟨b.posStack[i], by simp [Blk.slot, h]⟩
    · exact ⟨b.vecStack[i], by simp [Blk.slot, h]⟩
  · subst hc; exact ⟨b.texStack[i], by simp [Blk.slot, h]⟩

/-- What load and multiply change (R212). -/
theorem mapTargets_eq (f : Matrix → Matrix) (b : Blk) :
    b.mapTargets f =
      match b.mode with
      | .projection => { b with P := f b.P }
      | .position => { b with Pos := f b.Pos }
      | .positionVector => { b with Pos := f b.Pos, Vec := f b.Vec }
      | .texture => { b with T := f b.T } := by
  split <;> rename_i h <;> rw [Blk.mapTargets, congrArg Mode.targets h] <;> rfl

/-- What a save changes (R212, R218, R220). -/
theorem saveAt_eq (i : Nat) (b : Blk) :
    b.saveAt i =
      match b.mode with
      | .projection => { b with projStack := b.projStack.setIfInBounds i b.P }
      | .position | .positionVector =>
        { b with
          posStack := b.posStack.setIfInBounds i b.Pos
          vecStack := b.vecStack.setIfInBounds i b.Vec }
      | .texture => { b with texStack := b.texStack.setIfInBounds i b.T } := by
  split <;> rename_i h <;> rw [Blk.saveAt, congrArg Mode.saved h] <;> rfl

/-- What a restore changes (R212, R219, R221). -/
theorem restoreFrom_eq (i : Nat) (b : Blk) :
    b.restoreFrom i =
      match b.mode with
      | .projection => { b with P := b.projStack[i]?.getD b.P }
      | .position | .positionVector =>
        { b with Pos := b.posStack[i]?.getD b.Pos, Vec := b.vecStack[i]?.getD b.Vec }
      | .texture => { b with T := b.texStack[i]?.getD b.T } := by
  split <;> rename_i h <;> rw [Blk.restoreFrom, congrArg Mode.saved h] <;>
    simp only [Mode.saved, List.foldl, Blk.slot]
  · cases b.projStack[i]? <;> rfl
  · cases b.posStack[i]? <;> simp only [Blk.setCurrent] <;> cases b.vecStack[i]? <;> rfl
  · cases b.posStack[i]? <;> simp only [Blk.setCurrent] <;> cases b.vecStack[i]? <;> rfl
  · cases b.texStack[i]? <;> rfl

/-- The pointer a mode writes (R212). -/
theorem setSp_eq (n : Nat) (b : Blk) :
    b.setSp n =
      match b.mode with
      | .projection => { b with spProj := n }
      | .position | .positionVector => { b with spPv := n }
      | .texture => { b with spTex := n } := by
  unfold Blk.setSp; split <;> simp_all only

/-! ### Pointers -/

/-- Load and multiply move no pointer. -/
theorem mapTargets_sps (f : Matrix → Matrix) (b : Blk) : (b.mapTargets f).spProj = b.spProj ∧ (b.mapTargets f).spPv = b.spPv ∧ (b.mapTargets f).spTex = b.spTex := by
  rw [mapTargets_eq]; split <;> exact ⟨rfl, rfl, rfl⟩

/-- A save moves no pointer. -/
theorem saveAt_sps (i : Nat) (b : Blk) : (b.saveAt i).spProj = b.spProj ∧ (b.saveAt i).spPv = b.spPv ∧ (b.saveAt i).spTex = b.spTex ∧ (b.saveAt i).mode = b.mode := by
  rw [saveAt_eq]; split <;> exact ⟨rfl, rfl, rfl, rfl⟩

/-- A restore moves no pointer. -/
theorem restoreFrom_sps (i : Nat) (b : Blk) : (b.restoreFrom i).spProj = b.spProj ∧ (b.restoreFrom i).spPv = b.spPv ∧ (b.restoreFrom i).spTex = b.spTex := by
  rw [restoreFrom_eq]; split <;> exact ⟨rfl, rfl, rfl⟩

/-- R44: a pointer written within the capacity stays within it. -/
theorem setSp_sps {b : Blk} {n : Nat} (hn : n ≤ b.mode.cap) (h1 : b.spProj ≤ 1) (h2 : b.spPv ≤ 31) (h3 : b.spTex ≤ 1) :
    (b.setSp n).spProj ≤ 1 ∧ (b.setSp n).spPv ≤ 31 ∧ (b.setSp n).spTex ≤ 1 := by
  rw [setSp_eq]
  cases hm : b.mode <;> rw [hm] at hn <;> simp only [Mode.cap, Config.projCap, Config.pvCap, Config.texCap] at hn <;> refine ⟨?_, ?_, ?_⟩ <;> dsimp only <;> assumption

/-! ### The frame of a command -/

/-- `b'` differs from `b` at most in the matrix engine and the two sticky flags. -/
structure EngineOnly (b b' : Blk) : Prop where
  eq : b' = { b with
    mode := b'.mode
    P := b'.P
    Pos := b'.Pos
    Vec := b'.Vec
    T := b'.T
    projStack := b'.projStack
    posStack := b'.posStack
    vecStack := b'.vecStack
    texStack := b'.texStack
    spProj := b'.spProj
    spPv := b'.spPv
    spTex := b'.spTex
    overflow := b'.overflow
    underflow := b'.underflow }

/-- Nothing changed. -/
theorem EngineOnly.refl (b : Blk) : EngineOnly b b := ⟨rfl⟩

/-- Two changes in a row. -/
theorem EngineOnly.trans {a b c : Blk} (h : EngineOnly a b) (h' : EngineOnly b c) : EngineOnly a c := by
  constructor; rw [h'.eq, h.eq]

/-- Load and multiply. -/
theorem mapTargets_engineOnly (f : Matrix → Matrix) (b : Blk) : EngineOnly b (b.mapTargets f) := by
  constructor; rw [mapTargets_eq]; split <;> rfl

/-- A save. -/
theorem saveAt_engineOnly (i : Nat) (b : Blk) : EngineOnly b (b.saveAt i) := by
  constructor; rw [saveAt_eq]; split <;> rfl

/-- A restore. -/
theorem restoreFrom_engineOnly (i : Nat) (b : Blk) : EngineOnly b (b.restoreFrom i) := by
  constructor; rw [restoreFrom_eq]; split <;> rfl

/-- A pointer write. -/
theorem setSp_engineOnly (n : Nat) (b : Blk) : EngineOnly b (b.setSp n) := by
  constructor; rw [setSp_eq]; split <;> rfl

/-- OVERFLOW set. -/
theorem setOverflow_engineOnly (b : Blk) : EngineOnly b b.setOverflow := ⟨rfl⟩

/-- UNDERFLOW set. -/
theorem setUnderflow_engineOnly (b : Blk) : EngineOnly b b.setUnderflow := ⟨rfl⟩

/-- A command changes only the matrix engine and the two sticky flags (R213-R221). -/
theorem applyCommand_engineOnly (o : MulOrder) (c : Command) (b : Blk) :
    EngineOnly b (applyCommand o c b).blk := by
  cases c with
  | setMode m => exact ⟨rfl⟩
  | push =>
    simp only [applyCommand, applyPush, Applied.blk]
    split
    · exact setOverflow_engineOnly b
    · exact (saveAt_engineOnly _ b).trans (setSp_engineOnly _ _)
  | pop n =>
    simp only [applyCommand, applyPop]
    split
    · exact (setUnderflow_engineOnly b).trans (setSp_engineOnly _ _)
    · split
      · exact setSp_engineOnly _ _
      · exact (setSp_engineOnly _ b).trans (restoreFrom_engineOnly _ _)
  | storeToStack slot =>
    simp only [applyCommand, applyStoreToStack, Applied.blk]
    split
    · exact setOverflow_engineOnly b
    · exact saveAt_engineOnly _ b
  | restoreFromStack slot =>
    simp only [applyCommand, applyRestoreFromStack, Applied.blk]
    split
    · exact setOverflow_engineOnly b
    · exact restoreFrom_engineOnly _ b
  | loadIdentity => exact mapTargets_engineOnly (fun _ => identity) b
  | loadMatrix O => exact mapTargets_engineOnly (fun _ => O) b
  | multiply O => exact mapTargets_engineOnly _ b
  | forwardOpaque e => exact .refl b

@[simp] theorem applyCommand_clearColor (o : MulOrder) (c : Command) (b : Blk) :
    (applyCommand o c b).blk.clearColor = b.clearColor := by rw [(applyCommand_engineOnly o c b).eq]
@[simp] theorem applyCommand_clearDepth (o : MulOrder) (c : Command) (b : Blk) :
    (applyCommand o c b).blk.clearDepth = b.clearDepth := by rw [(applyCommand_engineOnly o c b).eq]
@[simp] theorem applyCommand_texParams (o : MulOrder) (c : Command) (b : Blk) :
    (applyCommand o c b).blk.texParams = b.texParams := by rw [(applyCommand_engineOnly o c b).eq]
@[simp] theorem applyCommand_test (o : MulOrder) (c : Command) (b : Blk) :
    (applyCommand o c b).blk.test = b.test := by rw [(applyCommand_engineOnly o c b).eq]
@[simp] theorem applyCommand_irqMode (o : MulOrder) (c : Command) (b : Blk) :
    (applyCommand o c b).blk.irqMode = b.irqMode := by rw [(applyCommand_engineOnly o c b).eq]
@[simp] theorem applyCommand_queue (o : MulOrder) (c : Command) (b : Blk) :
    (applyCommand o c b).blk.queue = b.queue := by rw [(applyCommand_engineOnly o c b).eq]
@[simp] theorem applyCommand_pipe (o : MulOrder) (c : Command) (b : Blk) :
    (applyCommand o c b).blk.pipe = b.pipe := by rw [(applyCommand_engineOnly o c b).eq]
@[simp] theorem applyCommand_IE (o : MulOrder) (c : Command) (b : Blk) :
    (applyCommand o c b).blk.IE = b.IE := by rw [(applyCommand_engineOnly o c b).eq]
@[simp] theorem applyCommand_IME (o : MulOrder) (c : Command) (b : Blk) :
    (applyCommand o c b).blk.IME = b.IME := by rw [(applyCommand_engineOnly o c b).eq]
@[simp] theorem applyCommand_IF (o : MulOrder) (c : Command) (b : Blk) :
    (applyCommand o c b).blk.IF = b.IF := by rw [(applyCommand_engineOnly o c b).eq]
@[simp] theorem applyCommand_prevCond (o : MulOrder) (c : Command) (b : Blk) :
    (applyCommand o c b).blk.prevCond = b.prevCond := by rw [(applyCommand_engineOnly o c b).eq]
@[simp] theorem applyCommand_pending (o : MulOrder) (c : Command) (b : Blk) :
    (applyCommand o c b).blk.pending = b.pending := by rw [(applyCommand_engineOnly o c b).eq]
@[simp] theorem applyCommand_fault (o : MulOrder) (c : Command) (b : Blk) :
    (applyCommand o c b).blk.fault = b.fault := by rw [(applyCommand_engineOnly o c b).eq]
@[simp] theorem applyCommand_refused (o : MulOrder) (c : Command) (b : Blk) :
    (applyCommand o c b).blk.refused = b.refused := by rw [(applyCommand_engineOnly o c b).eq]
@[simp] theorem applyCommand_diag (o : MulOrder) (c : Command) (b : Blk) :
    (applyCommand o c b).blk.diag = b.diag := by rw [(applyCommand_engineOnly o c b).eq]

/-! ### The sticky flags -/

@[simp] theorem mapTargets_overflow (f : Matrix → Matrix) (b : Blk) : (b.mapTargets f).overflow = b.overflow := by
  rw [mapTargets_eq]; split <;> rfl

@[simp] theorem mapTargets_underflow (f : Matrix → Matrix) (b : Blk) : (b.mapTargets f).underflow = b.underflow := by
  rw [mapTargets_eq]; split <;> rfl

@[simp] theorem saveAt_overflow (f : Nat) (b : Blk) : (b.saveAt f).overflow = b.overflow := by
  rw [saveAt_eq]; split <;> rfl

@[simp] theorem saveAt_underflow (f : Nat) (b : Blk) : (b.saveAt f).underflow = b.underflow := by
  rw [saveAt_eq]; split <;> rfl

@[simp] theorem restoreFrom_overflow (f : Nat) (b : Blk) : (b.restoreFrom f).overflow = b.overflow := by
  rw [restoreFrom_eq]; split <;> rfl

@[simp] theorem restoreFrom_underflow (f : Nat) (b : Blk) : (b.restoreFrom f).underflow = b.underflow := by
  rw [restoreFrom_eq]; split <;> rfl

/-- The matrix engine only sets the sticky flags (R217). -/
theorem applyCommand_flags (o : MulOrder) (c : Command) (b : Blk) :
    (b.overflow = true → (applyCommand o c b).blk.overflow = true) ∧
    (b.underflow = true → (applyCommand o c b).blk.underflow = true) := by
  cases c <;> simp only [applyCommand, applyPush, applyPop, applyStoreToStack, applyRestoreFromStack,
    applyLoadIdentity, applyLoadMatrix, applyMultiply, applySetMode] <;> (repeat' split) <;> simp [Applied.blk]

/-- R217: only Pop raises a fault. -/
theorem only_pop_faults {o : MulOrder} {c : Command} {b b' : Blk} {f : ModelFault} (h : Machine.applyCommand o c b = .raised f b') : ∃ m n, f = .stackIndex m n := by
  cases c <;> simp only [Machine.applyCommand, reduceCtorEq] at h
  unfold applyPop at h
  split at h
  · simp at h
  · split at h
    · simp at h; exact ⟨_, _, h.1.symm⟩
    · simp at h

/-! ### What a command reads -/

/-- `o` with the matrix engine and the two sticky flags of `b`. -/
def withEngine (o b : Blk) : Blk :=
  { o with
    mode := b.mode, P := b.P, Pos := b.Pos, Vec := b.Vec, T := b.T
    projStack := b.projStack, posStack := b.posStack, vecStack := b.vecStack, texStack := b.texStack
    spProj := b.spProj, spPv := b.spPv, spTex := b.spTex
    overflow := b.overflow, underflow := b.underflow }

/-- A change of `S` after a command, whatever its end. -/
def Applied.mapBlk (f : Blk → Blk) : Applied → Applied
  | .ok b => .ok (f b)
  | .raised e b => .raised e (f b)

/-- Load and multiply read and write the engine only. -/
theorem mapTargets_withEngine (f : Matrix → Matrix) (b : Blk) :
    (withEngine w b).mapTargets f = withEngine w (b.mapTargets f) := by
  rw [mapTargets_eq, mapTargets_eq, show (withEngine w b).mode = b.mode from rfl]
  cases b.mode <;> rfl

/-- A save reads and writes the engine only. -/
theorem saveAt_withEngine (i : Nat) (b : Blk) :
    (withEngine w b).saveAt i = withEngine w (b.saveAt i) := by
  rw [saveAt_eq, saveAt_eq, show (withEngine w b).mode = b.mode from rfl]
  cases b.mode <;> rfl

/-- A restore reads and writes the engine only. -/
theorem restoreFrom_withEngine (i : Nat) (b : Blk) :
    (withEngine w b).restoreFrom i = withEngine w (b.restoreFrom i) := by
  rw [restoreFrom_eq, restoreFrom_eq, show (withEngine w b).mode = b.mode from rfl]
  cases b.mode <;> rfl

/-- A pointer write reads and writes the engine only. -/
theorem setSp_withEngine (i : Nat) (b : Blk) :
    (withEngine w b).setSp i = withEngine w (b.setSp i) := by
  rw [setSp_eq, setSp_eq, show (withEngine w b).mode = b.mode from rfl]
  cases b.mode <;> rfl

/-- A command reads and writes the engine only (R213-R221). -/
theorem applyCommand_withEngine (o : MulOrder) (c : Command) (b : Blk) :
    applyCommand o c (withEngine w b) = (applyCommand o c b).mapBlk (withEngine w) := by
  have hsp : (withEngine w b).sp = b.sp := rfl
  have hm : (withEngine w b).mode = b.mode := rfl
  cases c with
  | setMode m => rfl
  | push =>
    simp only [applyCommand, applyPush, hsp, hm, saveAt_withEngine, setSp_withEngine]
    split <;> rfl
  | pop n =>
    simp only [applyCommand, applyPop, hsp, hm, setSp_withEngine, restoreFrom_withEngine]
    split
    · simp only [Applied.mapBlk, ← setSp_withEngine]; rfl
    · split <;> rfl
  | storeToStack slot =>
    simp only [applyCommand, applyStoreToStack, hm, saveAt_withEngine]
    split <;> rfl
  | restoreFromStack slot =>
    simp only [applyCommand, applyRestoreFromStack, hm, restoreFrom_withEngine]
    split <;> rfl
  | loadIdentity => simp only [applyCommand, applyLoadIdentity, mapTargets_withEngine]; rfl
  | loadMatrix O => simp only [applyCommand, applyLoadMatrix, mapTargets_withEngine]; rfl
  | multiply O => simp only [applyCommand, applyMultiply, mapTargets_withEngine]; rfl
  | forwardOpaque e => rfl

/-! ### Matrices -/

/-- Matrices are equal when their elements are. -/
theorem matrix_ext {A B : Matrix} (h : ∀ i j : Fin 4, A[i][j] = B[i][j]) : A = B := by
  apply Vector.ext; intro i hi
  apply Vector.ext; intro j hj
  exact h ⟨i, hi⟩ ⟨j, hj⟩

/-- R211: the elements of the identity. -/
theorem identity_get (i j : Fin 4) : identity[i][j] = if i = j then 0x1000 else 0 := by
  simp [identity, diag, Config.one]

/-- R117: the elements of the operand. -/
theorem matrixOperand_get {ps : List Word} (h : ps.length = 16) (i j : Fin 4) :
    ps[4 * i.val + j.val]? = some (matrixOperand ps)[i][j] := by
  have hi := i.isLt; have hj := j.isLt
  simp only [matrixOperand, Fin.getElem_fin, Vector.getElem_ofFn]
  rw [List.getElem?_eq_getElem (by omega), List.getD_eq_getElem _ _ (by omega)]

/-- R210: the elements of a product. -/
theorem matMul_get (A B : Matrix) (i j : Fin 4) : (matMul A B)[i][j] = productElement A B i j := by
  simp [matMul]

/-- R210: the exact sum. -/
theorem dot_eq_sum (A B : Matrix) (i j : Fin 4) : dot A B i j = ∑ k : Fin 4, A[i][k].toInt * B[k][j].toInt := by
  simp only [Fin.sum_univ_four]; rfl

end Sys2Proof.Machine
end

