-- ==== Sys2Proof/Laws/Exec.lean ====
section
/-! SUPPORT. All an operation can do: Recompute, Enqueue, the execution step, and the one inversion of `exec`. -/

namespace Sys2Proof.Machine

/-! ### Recompute and the first fault -/

/-- Recompute changes `pending` and `prevCond` only (R264). -/
theorem recompute_eq (d : Nat) (b : Blk) :
    b.recompute d = { b with
      pending := if b.cond = true ∧ b.prevCond = false then b.pending ++ [d] else b.pending
      prevCond := b.cond } := by
  unfold Blk.recompute Blk.schedule
  cases b.cond <;> cases b.prevCond <;> rfl

/-- R264: Recompute schedules at most one delivery, on an edge. -/
theorem recompute_pending_cases (d : Nat) (b : Blk) : (b.recompute d).pending = b.pending ∨
    ((b.recompute d).pending = b.pending ++ [d] ∧ b.prevCond = false ∧ b.cond = true) := by
  rw [recompute_eq]
  by_cases h : b.cond = true ∧ b.prevCond = false
  · exact .inr ⟨by simp [h], h.2, h.1⟩
  · exact .inl (by simp [h])

/-- R264: after Recompute `prev_cond` is the condition. -/
theorem recompute_cond (d : Nat) (b : Blk) : (b.recompute d).cond = b.cond ∧ (b.recompute d).prevCond = b.cond := by
  rw [recompute_eq]; exact ⟨rfl, rfl⟩

/-- R51: only the first fault is recorded. -/
theorem recordFault_eq (f : ModelFault) (b : Blk) :
    b.recordFault f = { b with fault := if b.fault = none then some f else b.fault } := by
  unfold Blk.recordFault; cases b.fault <;> rfl

/-! ### The two buffers -/

/-- R183's removal and refill. -/
theorem takeHead_eq (b : Blk) :
    b.takeHead = { b with pipe := b.pipe.tail ++ b.queue.take 1, queue := b.queue.drop 1 } := by
  unfold Blk.takeHead
  obtain ⟨⟩ := b
  split <;> rename_i h <;> dsimp only at h <;> subst h <;> simp

/-- Removal and refill take the oldest held entry (R187). -/
theorem takeHead_held {b : Blk} {e : Entry} {rest : List Entry} (h : b.pipe = e :: rest) :
    b.held = e :: b.takeHead.held := by
  simp only [Blk.held, takeHead_eq, h, List.tail_cons, List.cons_append, List.append_assoc,
    List.take_append_drop]

/-- The two list lengths after removal and refill. -/
theorem takeHead_lengths (b : Blk) :
    b.takeHead.pipe.length = b.pipe.length - 1 + min 1 b.queue.length ∧
    b.takeHead.queue.length = b.queue.length - 1 := by
  simp [takeHead_eq]

/-- R260: the count is the number of held entries. -/
theorem held_length (b : Blk) : b.held.length = b.pipe.length + b.queue.length := by simp [Blk.held]

/-! ### Entries and commands -/

/-- Check accepts exactly the entries that Dispatch has a command for (R182, R185). -/
theorem check_eq_none_iff (e : Entry) : e.check = none ↔ ∃ c, e.command = some c := by
  obtain ⟨tag, ps⟩ := e
  simp only [Entry.check, Entry.command, Entry.matrixCommand, isOpaqueTag]
  by_cases hr : isRefusedTag tag = true
  · simp [hr]
  · simp only [hr, Bool.false_eq_true, if_false, Bool.not_false, Bool.and_true]
    by_cases h10 : tag = 0x10; · subst h10; rcases ps with _ | ⟨p, _ | ⟨q, l⟩⟩ <;> simp [matrixArity]
    by_cases h11 : tag = 0x11; · subst h11; rcases ps with _ | ⟨p, _ | ⟨q, l⟩⟩ <;> simp [matrixArity]
    by_cases h12 : tag = 0x12; · subst h12; rcases ps with _ | ⟨p, _ | ⟨q, l⟩⟩ <;> simp [matrixArity]
    by_cases h13 : tag = 0x13; · subst h13; rcases ps with _ | ⟨p, _ | ⟨q, l⟩⟩ <;> simp [matrixArity]
    by_cases h14 : tag = 0x14; · subst h14; rcases ps with _ | ⟨p, _ | ⟨q, l⟩⟩ <;> simp [matrixArity]
    by_cases h15 : tag = 0x15; · subst h15; rcases ps with _ | ⟨p, _ | ⟨q, l⟩⟩ <;> simp [matrixArity]
    by_cases h16 : tag = 0x16
    · subst h16
      rcases ps with _ | ⟨p, _ | ⟨q, l⟩⟩ <;> simp [matrixArity]
    by_cases h18 : tag = 0x18
    · subst h18
      rcases ps with _ | ⟨p, _ | ⟨q, l⟩⟩ <;> simp [matrixArity]
    have hm : matrixArity tag = none := by
      unfold matrixArity
      rw [if_neg h10, if_neg h11, if_neg h12, if_neg h13, if_neg h14, if_neg h15, if_neg h16,
        if_neg h18]
    simp [hm]

/-- R182: an accepted operation passes Check. -/
theorem check_of_accepts {i : Instr} {e : Entry} (h : Accepts i e) : e.check = none := by
  cases h with
  | loadMatrix ps h => simp [Entry.check, isRefusedTag, matrixArity, h]
  | multiply ps h => simp [Entry.check, isRefusedTag, matrixArity, h]
  | opaqueCmd tag ps h =>
    simp only [isOpaqueTag, Bool.and_eq_true, Option.isNone_iff_eq_none, Bool.not_eq_true'] at h
    simp [Entry.check, h.1, h.2]
  | _ => rfl

/-- An accepted operation is the CMD row of its entry. -/
theorem cmdEntry_of_accepts {i : Instr} {e : Entry} (h : Accepts i e) : cmdEntry i = some e := by
  cases h <;> rfl

/-- R185: an Opaque entry is forwarded. -/
theorem opaque_command {tag : Byte} {ps : List Word} (h : isOpaqueTag tag = true) :
    (Entry.mk tag ps).command = some (.forwardOpaque ⟨tag, ps⟩) := by
  have : isRefusedTag tag = false := by
    simp only [isOpaqueTag, Bool.and_eq_true, Bool.not_eq_true'] at h; exact h.2
  simp [Entry.command, h, this]

/-- R185: the two commands of sixteen words. -/
theorem command_16 {tag : Byte} {ps : List Word} (h : ps.length = 16) (h1 : isRefusedTag tag = false) (h2 : isOpaqueTag tag = false) :
    (Entry.mk tag ps).command = if tag = 0x16 then some (.loadMatrix (matrixOperand ps)) else if tag = 0x18 then some (.multiply (matrixOperand ps)) else none := by
  simp only [Entry.command, h1, h2, Bool.false_eq_true, if_false, Entry.matrixCommand]
  rcases ps with _ | ⟨p, _ | ⟨q, l⟩⟩
  · simp at h
  · simp at h
  · simp only [h, true_and]

/-! ### Operations -/

/-- A BUS row is a bus access at its address (R150, R151). -/
theorem exec_busAccess {i : Instr} {pg : Page} {addr : Addr} {v : Option Byte}
    (h : busAccess i = some (pg, addr, v)) (s : State) :
    exec i s = .next (match v with | none => s.busRead pg addr | some v => s.busWrite pg addr v) := by
  cases i <;> simp only [busAccess, Option.some.injEq, Prod.mk.injEq, reduceCtorEq] at h <;>
    obtain ⟨rfl, rfl, rfl⟩ := h <;> rfl

/-- A CMD row is the Enqueue of its entry (R180). -/
theorem exec_cmdEntry {i : Instr} {e : Entry} (h : cmdEntry i = some e) (s : State) :
    exec i s = .next (s.enqueue e) := by
  cases i <;> simp only [cmdEntry, Option.some.injEq, reduceCtorEq] at h <;> subst h <;> rfl

/-- All an Enqueue can do. -/
theorem enqueue_cases (e : Entry) (s : State) :
    (∃ r, e.check = some r ∧ s.enqueue e = s.refuse r) ∨
    (e.check = none ∧ s.blk.pipe.length < Config.pipeCap ∧
      s.enqueue e =
        s.ok (Blk.recompute s.cfg.gxIrqDelay { s.blk with pipe := s.blk.pipe ++ [e] }) .accepted) ∨
    (e.check = none ∧ Config.pipeCap ≤ s.blk.pipe.length ∧ s.blk.queue.length < Config.queueCap ∧
      s.enqueue e =
        s.ok (Blk.recompute s.cfg.gxIrqDelay { s.blk with queue := s.blk.queue ++ [e] }) .accepted) ∨
    (e.check = none ∧ Config.pipeCap ≤ s.blk.pipe.length ∧
      Config.queueCap ≤ s.blk.queue.length ∧ s.enqueue e = s.answerFull) := by
  unfold State.enqueue
  cases h : e.check with
  | some r => exact .inl ⟨r, rfl, rfl⟩
  | none =>
    by_cases hp : s.blk.pipe.length < Config.pipeCap
    · exact .inr (.inl ⟨rfl, hp, by simp [hp]⟩)
    · by_cases hq : s.blk.queue.length < Config.queueCap
      · exact .inr (.inr (.inl ⟨rfl, by omega, hq, by simp [hp, hq]⟩))
      · exact .inr (.inr (.inr ⟨rfl, by omega, by omega, by simp [hp, hq]⟩))

/-- All the end of an execution step can do (R183, R265): Recompute in both cases. -/
theorem finishExec_cases (em : List Entry) (a : Applied) (s : State) :
    (∃ b, a = .ok b ∧
      s.finishExec em a = { s with
        result := .done, rendered := s.rendered ++ em, blk := b.recompute s.cfg.gxIrqDelay }) ∨
    (∃ f b, a = .raised f b ∧
      s.finishExec em a = { s with
        result := .raised f, blk := (b.recompute s.cfg.gxIrqDelay).recordFault f }) := by
  cases a with
  | ok b => exact .inl ⟨b, rfl, rfl⟩
  | raised f b => exact .inr ⟨f, b, rfl, rfl⟩

/-- EXEC on an entry that has a command (R183). -/
theorem exec_exec {s : State} {e : Entry} {rest : List Entry} {c : Command}
    (hf : s.blk.fault = none) (hp : s.blk.pipe = e :: rest) (hc : e.command = some c) :
    exec .exec s =
      .next (s.finishExec c.emitted (applyCommand s.cfg.mulOrder c s.blk.takeHead)) := by
  simp [exec, execExec, hf, hp, hc]

/-- All EXEC can do when it steps. -/
theorem exec_exec_next {s t : State} (h : exec .exec s = .next t) :
    ∃ e rest c, s.blk.fault = none ∧ s.blk.pipe = e :: rest ∧ e.command = some c ∧
      t = s.finishExec c.emitted (applyCommand s.cfg.mulOrder c s.blk.takeHead) := by
  simp only [exec, execExec] at h
  split at h <;> try simp at h
  rename_i hf hp
  split at h <;> simp at h
  exact ⟨_, _, _, hf, hp, ‹_›, h.symm⟩

/-- All an operation can do when it steps: the one inversion of `exec`. -/
theorem exec_next_cases {i : Instr} {s t : State} (h : exec i s = .next t) :
    (∃ pg addr, busAccess i = some (pg, addr, none) ∧ t = s.busRead pg addr) ∨
    (∃ pg addr v, busAccess i = some (pg, addr, some v) ∧ t = s.busWrite pg addr v) ∨
    (∃ e, cmdEntry i = some e ∧ t = s.enqueue e) ∨
    (i = .exec ∧ ∃ e rest c, s.blk.fault = none ∧ s.blk.pipe = e :: rest ∧ e.command = some c ∧
      t = s.finishExec c.emitted (applyCommand s.cfg.mulOrder c s.blk.takeHead)) ∨
    (i = .tick ∧ t = s.ok (s.blk.tick s.cfg.gxIrqSource) .done) ∨
    (∃ src, i = .raise src ∧
      ((13 < src.toNat ∧ t = s.refuse (.source src)) ∨
       (src.toNat ≤ 13 ∧ t = s.ok { s.blk with IF := s.blk.IF ||| ((1 : BitVec 14) <<< src.toNat) } .done))) ∨
    (∃ v, i = .testset v ∧ t = s.ok { s.blk with test := v.extractLsb' 0 2 } .done) ∨
    (i = .poll ∧ t = s.ok s.blk (.flag s.blk.interruptsRequested)) ∨
    (i = .reset ∧ t = { s.ok (s.blk.afterReset s.draw) .done with draw := s.draw + 1 }) ∨
    (∃ code, i = .refusedPort code ∧ t = s.refuse (.port code)) := by
  rcases hb : busAccess i with _ | ⟨pg, addr, v⟩
  · rcases hc : cmdEntry i with _ | e
    · cases i <;> simp only [busAccess, cmdEntry, reduceCtorEq] at hb hc
      case exec => exact .inr (.inr (.inr (.inl ⟨rfl, exec_exec_next h⟩)))
      case tick => injection h with h; exact .inr (.inr (.inr (.inr (.inl ⟨rfl, h.symm⟩))))
      case raise src =>
        simp only [exec, execRaise] at h; injection h with h
        refine .inr (.inr (.inr (.inr (.inr (.inl ⟨src, rfl, ?_⟩)))))
        by_cases hs : src.toNat > 13
        · rw [if_pos hs] at h; exact .inl ⟨hs, h.symm⟩
        · rw [if_neg hs] at h; exact .inr ⟨by omega, h.symm⟩
      case testset v =>
        injection h with h; exact .inr (.inr (.inr (.inr (.inr (.inr (.inl ⟨v, rfl, h.symm⟩))))))
      case poll =>
        injection h with h
        exact .inr (.inr (.inr (.inr (.inr (.inr (.inr (.inl ⟨rfl, h.symm⟩)))))))
      case reset =>
        injection h with h
        exact .inr (.inr (.inr (.inr (.inr (.inr (.inr (.inr (.inl ⟨rfl, h.symm⟩))))))))
      case refusedPort code =>
        injection h with h
        exact .inr (.inr (.inr (.inr (.inr (.inr (.inr (.inr (.inr ⟨code, rfl, h.symm⟩))))))))
    · rw [exec_cmdEntry hc] at h; injection h with h
      exact .inr (.inr (.inl ⟨e, rfl, h.symm⟩))
  · rw [exec_busAccess hb] at h; injection h with h
    cases v with
    | none => exact .inl ⟨pg, addr, rfl, h.symm⟩
    | some v => exact .inr (.inl ⟨pg, addr, v, rfl, h.symm⟩)

/-- R329: every operation but EXEC has a next state. -/
theorem exec_ne_exec {i : Instr} (h : i ≠ .exec) (s : State) : ∃ t, exec i s = .next t := by
  cases i <;> first | exact absurd rfl h | exact ⟨_, rfl⟩

end Sys2Proof.Machine
end

