-- ==== Sys2Proof/Laws/PerInstr.lean ====
section
/-! SUPPORT. The per-instruction families. `BusAgent` (R5, R110, R120): the bus agent issues exactly the operations
of the formats CMD and BUS. -/

namespace Sys2Proof.Laws.BusAgent

open Sys2Proof Sys2Proof.Machine

/-- R5: "`Bus`: the emulated CPU's bus side. It issues byte reads, byte writes and command enqueues." The
operations of the other agents, and the refused port codes, are the PORT ones (R120). -/
def Statement (i : Instr) : Prop :=
  i.agent = some .bus ↔ ¬ ∃ code operand, encode i = .port code operand

theorem setMode (params : List Word) : Statement (.setMode params) := by
  simp [Statement, Instr.agent, encode]
theorem push (params : List Word) : Statement (.push params) := by
  simp [Statement, Instr.agent, encode]
theorem pop (params : List Word) : Statement (.pop params) := by
  simp [Statement, Instr.agent, encode]
theorem storeToStack (params : List Word) : Statement (.storeToStack params) := by
  simp [Statement, Instr.agent, encode]
theorem restoreFromStack (params : List Word) : Statement (.restoreFromStack params) := by
  simp [Statement, Instr.agent, encode]
theorem loadIdentity (params : List Word) : Statement (.loadIdentity params) := by
  simp [Statement, Instr.agent, encode]
theorem loadMatrix (params : List Word) : Statement (.loadMatrix params) := by
  simp [Statement, Instr.agent, encode]
theorem refusedTag17 (params : List Word) : Statement (.refusedTag17 params) := by
  simp [Statement, Instr.agent, encode]
theorem multiply (params : List Word) : Statement (.multiply params) := by
  simp [Statement, Instr.agent, encode]
theorem refusedTag19 (params : List Word) : Statement (.refusedTag19 params) := by
  simp [Statement, Instr.agent, encode]
theorem refusedTag1A (params : List Word) : Statement (.refusedTag1A params) := by
  simp [Statement, Instr.agent, encode]
theorem refusedTag1B (params : List Word) : Statement (.refusedTag1B params) := by
  simp [Statement, Instr.agent, encode]
theorem refusedTag1C (params : List Word) : Statement (.refusedTag1C params) := by
  simp [Statement, Instr.agent, encode]
theorem opaqueCmd (tag : Byte) (params : List Word) : Statement (.opaqueCmd tag params) := by
  simp [Statement, Instr.agent, encode]
theorem rd8ClearColor (sel : PageSel) (k : BitVec 2) : Statement (.rd8ClearColor sel k) := by
  simp [Statement, Instr.agent, encode, encodeBus]
theorem wr8ClearColor (sel : PageSel) (k : BitVec 2) (v : Byte) : Statement (.wr8ClearColor sel k v) := by
  simp [Statement, Instr.agent, encode, encodeBus]
theorem rd8ClearDepth (sel : PageSel) (k : BitVec 1) : Statement (.rd8ClearDepth sel k) := by
  simp [Statement, Instr.agent, encode, encodeBus]
theorem wr8ClearDepth (sel : PageSel) (k : BitVec 1) (v : Byte) : Statement (.wr8ClearDepth sel k v) := by
  simp [Statement, Instr.agent, encode, encodeBus]
theorem rd8TextureParams (sel : PageSel) (off : Offset) : Statement (.rd8TextureParams sel off) := by
  simp [Statement, Instr.agent, encode, encodeBus]
theorem wr8TextureParams (sel : PageSel) (off : Offset) (v : Byte) : Statement (.wr8TextureParams sel off v) := by
  simp [Statement, Instr.agent, encode, encodeBus]
theorem rd8Gxstat (sel : PageSel) (k : BitVec 2) : Statement (.rd8Gxstat sel k) := by
  simp [Statement, Instr.agent, encode, encodeBus]
theorem wr8Gxstat (sel : PageSel) (k : BitVec 2) (v : Byte) : Statement (.wr8Gxstat sel k v) := by
  simp [Statement, Instr.agent, encode, encodeBus]
theorem rd8GxUnmapped (sel : PageSel) (off : Offset) : Statement (.rd8GxUnmapped sel off) := by
  simp [Statement, Instr.agent, encode, encodeBus]
theorem wr8GxUnmapped (sel : PageSel) (off : Offset) (v : Byte) : Statement (.wr8GxUnmapped sel off v) := by
  simp [Statement, Instr.agent, encode, encodeBus]
theorem rd8MasterEnable (sel : PageSel) (k : BitVec 2) : Statement (.rd8MasterEnable sel k) := by
  simp [Statement, Instr.agent, encode, encodeBus]
theorem wr8MasterEnable (sel : PageSel) (k : BitVec 2) (v : Byte) : Statement (.wr8MasterEnable sel k v) := by
  simp [Statement, Instr.agent, encode, encodeBus]
theorem rd8Enable (sel : PageSel) (k : BitVec 2) : Statement (.rd8Enable sel k) := by
  simp [Statement, Instr.agent, encode, encodeBus]
theorem wr8Enable (sel : PageSel) (k : BitVec 2) (v : Byte) : Statement (.wr8Enable sel k v) := by
  simp [Statement, Instr.agent, encode, encodeBus]
theorem rd8Request (sel : PageSel) (k : BitVec 2) : Statement (.rd8Request sel k) := by
  simp [Statement, Instr.agent, encode, encodeBus]
theorem wr8Request (sel : PageSel) (k : BitVec 2) (v : Byte) : Statement (.wr8Request sel k v) := by
  simp [Statement, Instr.agent, encode, encodeBus]
theorem rd8IrqUnmapped (sel : PageSel) (off : Offset) : Statement (.rd8IrqUnmapped sel off) := by
  simp [Statement, Instr.agent, encode, encodeBus]
theorem wr8IrqUnmapped (sel : PageSel) (off : Offset) (v : Byte) : Statement (.wr8IrqUnmapped sel off v) := by
  simp [Statement, Instr.agent, encode, encodeBus]
theorem exec : Statement .exec := by
  simp [Statement, Instr.agent, encode]
theorem tick : Statement .tick := by
  simp [Statement, Instr.agent, encode]
theorem raise (src : Byte) : Statement (.raise src) := by
  simp [Statement, Instr.agent, encode]
theorem testset (v : Byte) : Statement (.testset v) := by
  simp [Statement, Instr.agent, encode]
theorem poll : Statement .poll := by
  simp [Statement, Instr.agent, encode]
theorem reset : Statement .reset := by
  simp [Statement, Instr.agent, encode]
theorem refusedPort (code : Byte) : Statement (.refusedPort code) := by
  simp [Statement, Instr.agent, encode]

end Sys2Proof.Laws.BusAgent
end

