-- ==== Sys2Proof/Machine/Pseudo.lean ====
section
/-! DEFINITION. The pseudo-operations of R124: a wider access as the sequence of operations it stands for,
and EXECALL as the loop it is, in a program whose operations other agents' steps may come between. They
are no operations of the block ("A pseudo-operation is not atomic"), so `Instr` has none. -/

namespace Sys2Proof.Machine

/-- Bit 13 of the access word (R118). -/
def pageBit : Page → BitVec 1
  | .gx => 0
  | .irq => 1

/-- The `n` byte writes, at ascending offsets, of a value's bytes from the lowest (R124, R84). DESIGN
CHOICE: past offset 0xFFF the offsets go on at 0x000 of the same page (log 18). -/
def writeBytes (n : Nat) (pg : Page) (sel : PageSel) (off : Offset) (v : Word) : List RawOp :=
  (List.range n).map fun k => encodeBus (pageBit pg) 1 sel (off + BitVec.ofNat 12 k) (getByte v k)

/-- The `n` byte reads at ascending offsets (R124, R84). DESIGN CHOICE: past offset 0xFFF the offsets go on
at 0x000 of the same page (log 18). -/
def readBytes (n : Nat) (pg : Page) (sel : PageSel) (off : Offset) : List RawOp :=
  (List.range n).map fun k => encodeBus (pageBit pg) 0 sel (off + BitVec.ofNat 12 k) 0

/-- `WR32 pg:off, v` (R124). -/
def wr32 (pg : Page) (sel : PageSel) (off : Offset) (v : Word) : List RawOp := writeBytes 4 pg sel off v

/-- `WR16 pg:off, v` (R124). -/
def wr16 (pg : Page) (sel : PageSel) (off : Offset) (v : BitVec 16) : List RawOp :=
  writeBytes 2 pg sel off (v.setWidth 32)

/-- `RD32 pg:off` (R124). -/
def rd32 (pg : Page) (sel : PageSel) (off : Offset) : List RawOp := readBytes 4 pg sel off

/-- `RD16 pg:off` (R124). -/
def rd16 (pg : Page) (sel : PageSel) (off : Offset) : List RawOp := readBytes 2 pg sel off

/-- `{b3,b2,b1,b0}`, the result of RD32 (R124). -/
def joinWord (b3 b2 b1 b0 : Byte) : Word := b3 ++ b2 ++ b1 ++ b0

/-- `{b1,b0}`, the result of RD16 (R124). -/
def joinHalf (b1 b0 : Byte) : BitVec 16 := b1 ++ b0

/-! ### Programs -/

/-- The widths of the reads that have a result of their own (R124). -/
inductive ReadWidth where
  | half
  | word
  deriving DecidableEq, Repr

/-- The result of an RD16 or of an RD32 (R124). -/
inductive ReadValue where
  | half (v : BitVec 16)
  | word (v : Word)
  deriving DecidableEq, Repr

/-- A line of a program (R123): one operation, the last byte read of an RD16 or RD32, with which that read
has its result, or EXECALL. The other pseudo-operations are the lines of their operations. -/
inductive Line where
  | op (r : RawOp)
  | lastRead (w : ReadWidth) (r : RawOp)
  | execAll
  deriving DecidableEq, Repr

/-- The lines of a sequence of operations. -/
def Line.ofOps (ops : List RawOp) : List Line := ops.map .op

/-- The lines of byte reads whose bytes make one result. -/
def Line.ofReads (w : ReadWidth) : List RawOp → List Line
  | [] => []
  | [r] => [.lastRead w r]
  | r :: ops => .op r :: Line.ofReads w ops

/-- The lines of `RD32 pg:off` (R124). -/
def Line.rd32 (pg : Page) (sel : PageSel) (off : Offset) : List Line :=
  Line.ofReads .word (Sys2Proof.Machine.rd32 pg sel off)

/-- The lines of `RD16 pg:off` (R124). -/
def Line.rd16 (pg : Page) (sel : PageSel) (off : Offset) : List Line :=
  Line.ofReads .half (Sys2Proof.Machine.rd16 pg sel off)

/-- The result of an RD16 or RD32 from what the program's operations returned, the latest first (R124):
`{b1,b0}` or `{b3,b2,b1,b0}`. `none` where one of its reads returned no byte, as on the wrong page (R86);
that it then has no result is a DESIGN CHOICE (log 19). -/
def joinReads : ReadWidth → List Result → Option ReadValue
  | .half, .byte b1 :: .byte b0 :: _ => some (.half (joinHalf b1 b0))
  | .word, .byte b3 :: .byte b2 :: .byte b1 :: .byte b0 :: _ => some (.word (joinWord b3 b2 b1 b0))
  | .half, _ => none
  | .word, _ => none

/-- A program's next operation in the state it finds. -/
structure NextOp where
  op : RawOp
  /-- The read that has its result with this operation. -/
  ends : Option ReadWidth
  /-- The lines that are then left. -/
  rest : List Line
  deriving DecidableEq, Repr

/-- A program's next operation; `none` when the program has ended. EXECALL is "EXEC repeated while
`len(S.queue)+len(S.pipe) > 0`": the count is tested anew before each EXEC, so an entry enqueued in between
is executed too, and after a RESET none is (R124). -/
def nextOp (b : Blk) : List Line → Option NextOp
  | [] => none
  | .op r :: rest => some ⟨r, none, rest⟩
  | .lastRead w r :: rest => some ⟨r, some w, rest⟩
  | .execAll :: rest => if 0 < b.count then some ⟨.port 0x01 0, none, .execAll :: rest⟩ else nextOp b rest

/-- Operations performed one after the other. -/
def performAll : List RawOp → State → Outcome
  | [], s => .next s
  | op :: ops, s =>
    match step { s with inputs := op :: s.inputs } with
    | .next t => performAll ops t
    | .fault r => .fault r
    | .refused r => .refused r

/-- Where a program has come to. What its operations returned is kept here, since the next operation of
any agent writes `State.result` anew. -/
structure ProgramRun where
  state : State
  /-- What each of the program's own operations returned, the latest first. -/
  returned : List Result
  /-- The results of its RD16s and RD32s, the earliest first. -/
  values : List (Option ReadValue)
  deriving DecidableEq, Repr

/-- A program before its first operation. -/
def ProgramRun.start (s : State) : ProgramRun := ⟨s, [], []⟩

/-- The run after an operation of the program's own: `t` is the state it gives. -/
def ProgramRun.after (ends : Option ReadWidth) (t : State) (run : ProgramRun) : ProgramRun where
  state := t
  returned := t.result :: run.returned
  values :=
    match ends with
    | some w => run.values ++ [joinReads w (t.result :: run.returned)]
    | none => run.values

/-- A program with other agents' steps in between (R124): each round performs the operations that others
put before the program's next operation, then that operation. The program takes at most as many
operations as there are rounds. -/
def runProgram : (rounds : List (List RawOp)) → List Line → ProgramRun →
    Host.Outcome ProgramRun Fault Refusal
  | [], _, run => .next run
  | others :: rounds, program, run =>
    match performAll others run.state with
    | .fault r => .fault r
    | .refused r => .refused r
    | .next t =>
      match nextOp t.blk program with
      | none => .next { run with state := t }
      | some next =>
        match performAll [next.op] t with
        | .next u => runProgram rounds next.rest (run.after next.ends u)
        | .fault r => .fault r
        | .refused r => .refused r

end Sys2Proof.Machine
end

