-- ==== Sys2Proof/Laws/Pseudo.lean ====
section
/-! SUPPORT. The results of R124's wide reads: joining a value's bytes gives the value, and a wide read with
nothing in between has its register's bytes, joined, as its result. -/

namespace Sys2Proof.Machine

/-- The four bytes of a word, joined as RD32 joins them, are the word (R83, R124). -/
theorem joinWord_getByte (v : Word) :
    joinWord (getByte v 3) (getByte v 2) (getByte v 1) (getByte v 0) = v := by
  apply BitVec.eq_of_getLsbD_eq
  intro i hi
  simp only [joinWord, getByte, BitVec.getLsbD_append, BitVec.getLsbD_extractLsb']
  interval_cases i <;> simp

/-- The two bytes of a half word, joined as RD16 joins them, are the half word (R83, R124). -/
theorem joinHalf_getByte (v : BitVec 16) : joinHalf (getByte v 1) (getByte v 0) = v := by
  apply BitVec.eq_of_getLsbD_eq
  intro i hi
  simp only [joinHalf, getByte, BitVec.getLsbD_append, BitVec.getLsbD_extractLsb']
  interval_cases i <;> simp

/-- A byte read of a register, performed alone, returns its byte and changes nothing of S (R150). -/
theorem performAll_read {s : State} {pg : Page} {off : Offset} {r : Register} {k : Nat}
    (ht : texOffsetLegal s.cfg.texOffset = true)
    (hr : regAt s.cfg.texOffset pg off = some (r, k)) :
    performAll [encodeBus (pageBit pg) 0 (s.cfg.selector pg) off 0] s =
      .next (s.ok s.blk (.byte (readReg r k s.blk))) := by
  have hop : encodeBus (pageBit pg) 0 (s.cfg.selector pg) off 0 =
      .bus (busWordOf pg false off) (addrOf (s.cfg.selector pg) off) 0 := by cases pg <;> rfl
  have hb := (busInstr_spec s.cfg.texOffset pg false (s.cfg.selector pg) off 0).1
  simp only [performAll, step, hop, decode_busWordOf fun _ => ht, exec_busAccess hb]
  exact congrArg _ (busRead_mapped rfl hr)

/-- An RD32 of a four-byte register with nothing in between (R124). -/
theorem runProgram_rd32 {s : State} {pg : Page} {off : Offset} {r : Register}
    (ht : texOffsetLegal s.cfg.texOffset = true)
    (hr : ∀ k, k < 4 → regAt s.cfg.texOffset pg (off + BitVec.ofNat 12 k) = some (r, k)) :
    ∃ run,
      runProgram (List.replicate 4 []) (Line.rd32 pg (s.cfg.selector pg) off) (.start s) = .next run ∧
        run.values = [some (.word (joinWord (readReg r 3 s.blk) (readReg r 2 s.blk)
          (readReg r 1 s.blk) (readReg r 0 s.blk)))] ∧
        run.state.blk = s.blk := by
  have hk : ∀ (u : State) (k : Nat), k < 4 → u.cfg = s.cfg → u.blk = s.blk →
      performAll [encodeBus (pageBit pg) 0 (s.cfg.selector pg) (off + BitVec.ofNat 12 k) 0] u =
        .next (u.ok u.blk (.byte (readReg r k s.blk))) := by
    intro u k h hc hb
    rw [← hb, ← hc]
    exact performAll_read (hc ▸ ht) (hc ▸ hr k h)
  have hl : Line.rd32 pg (s.cfg.selector pg) off =
      [.op (encodeBus (pageBit pg) 0 (s.cfg.selector pg) (off + BitVec.ofNat 12 0) 0),
        .op (encodeBus (pageBit pg) 0 (s.cfg.selector pg) (off + BitVec.ofNat 12 1) 0),
        .op (encodeBus (pageBit pg) 0 (s.cfg.selector pg) (off + BitVec.ofNat 12 2) 0),
        .lastRead .word (encodeBus (pageBit pg) 0 (s.cfg.selector pg) (off + BitVec.ofNat 12 3) 0)] :=
    rfl
  have hn : ∀ u : State, performAll [] u = .next u := fun _ => rfl
  simp only [hl, List.replicate, runProgram, hn, nextOp, ProgramRun.start, ProgramRun.after]
  rw [hk s 0 (by omega) rfl rfl]
  simp only
  rw [hk (s.ok s.blk (.byte (readReg r 0 s.blk))) 1 (by omega) rfl rfl]
  simp only [State.ok_blk]
  rw [hk ((s.ok s.blk (.byte (readReg r 0 s.blk))).ok s.blk (.byte (readReg r 1 s.blk))) 2 (by omega)
    rfl rfl]
  simp only [State.ok_blk]
  rw [hk (((s.ok s.blk (.byte (readReg r 0 s.blk))).ok s.blk (.byte (readReg r 1 s.blk))).ok s.blk
    (.byte (readReg r 2 s.blk))) 3 (by omega) rfl rfl]
  exact ⟨_, rfl, rfl, rfl⟩

/-- An RD16 of two bytes of a register with nothing in between (R124). -/
theorem runProgram_rd16 {s : State} {pg : Page} {off : Offset} {r : Register} {k : Nat}
    (ht : texOffsetLegal s.cfg.texOffset = true)
    (h0 : regAt s.cfg.texOffset pg off = some (r, k))
    (h1 : regAt s.cfg.texOffset pg (off + 1) = some (r, k + 1)) :
    ∃ run,
      runProgram (List.replicate 2 []) (Line.rd16 pg (s.cfg.selector pg) off) (.start s) = .next run ∧
        run.values = [some (.half (joinHalf (readReg r (k + 1) s.blk) (readReg r k s.blk)))] ∧
        run.state.blk = s.blk := by
  have hl : Line.rd16 pg (s.cfg.selector pg) off =
      [.op (encodeBus (pageBit pg) 0 (s.cfg.selector pg) off 0),
        .lastRead .half (encodeBus (pageBit pg) 0 (s.cfg.selector pg) (off + 1) 0)] := by
    show [_, _] = _
    simp
  have hn : ∀ u : State, performAll [] u = .next u := fun _ => rfl
  simp only [hl, List.replicate, runProgram, hn, nextOp, ProgramRun.start, ProgramRun.after]
  rw [performAll_read ht h0]
  simp only
  have h2 := performAll_read (s := s.ok s.blk (.byte (readReg r k s.blk))) ht h1
  simp only [State.ok_cfg, State.ok_blk] at h2
  rw [h2]
  exact ⟨_, rfl, rfl, rfl⟩

end Sys2Proof.Machine
end

