-- ==== Sys2Proof/Tests/Slice0.lean ====
section
/-! SUPPORT. The model's own tests: ill-formed terms refused, decoding of words written out from
30_encoding.md, one-step effects with the expected values of 95_test_vectors.md (the row is named in
each), and a witness for the hypotheses of each statement that has any. -/

namespace Sys2Proof.Tests

open Machine

/-! ### A small state -/

/-- The conventions of 95_test_vectors.md for the OPEN parameters; source and delay as in its P3. -/
def cfg : Params where
  gxPage := 0x04000
  irqPage := 0x04000
  texOffset := none
  mulOrder := .left
  gxIrqSource := 8
  gxIrqDelay := 2

/-- R54's table with every drawn field 0. -/
def blk : Blk where
  clearColor := 0
  clearDepth := 0
  texParams := 0
  test := 0
  underflow := false
  overflow := false
  irqMode := 0
  queue := []
  pipe := []
  mode := .projection
  P := diag 0
  Pos := diag 0
  Vec := diag 0
  T := diag 0
  projStack := Vector.replicate 1 (diag 0)
  posStack := Vector.replicate 31 (diag 0)
  vecStack := Vector.replicate 31 (diag 0)
  texStack := Vector.replicate 1 (diag 0)
  spProj := 0
  spPv := 0
  spTex := 0
  IE := 0
  IME := 0
  IF := 0
  prevCond := false
  pending := []
  fault := none
  refused := false
  diag := []

/-- A state with the record `b`. -/
def at_ (b : Blk) : State where
  blk := b
  cfg := cfg
  inputs := []
  result := .done
  rendered := []
  draw := 1
  overrun := false

/-- The same with `TEXPARAMS_OFFSET` = 0x400. -/
def atTex (b : Blk) : State := { at_ b with cfg := { cfg with texOffset := some 0x400 } }

/-- What a projection shows of the next state; `none` when there is none. -/
def after {α : Type} (f : State → α) (i : Instr) (s : State) : Option α :=
  match exec i s with
  | .next t => some (f t)
  | .fault _ => none
  | .refused _ => none

/-- The pipe holds one entry: the next EXEC executes it. -/
def holding (tag : Byte) (ps : List Word) (b : Blk) : State := at_ { b with pipe := [⟨tag, ps⟩] }

/-- The fault of a step that has none of the other outcomes. -/
def stop (i : Instr) (s : State) : Option Fault :=
  match exec i s with
  | .fault f => some f
  | .next _ => none
  | .refused _ => none

/-! ### WellFormed refuses an ill-formed term for each check -/

theorem test_wf_opaque_tag : Instr.wellFormed none (.opaqueCmd 0x17 []) = false := by decide
theorem test_wf_opaque_matrix_tag : Instr.wellFormed none (.opaqueCmd 0x10 [0]) = false := by decide
theorem test_wf_tex_none : Instr.wellFormed none (.rd8TextureParams 0x04000 0x400) = false := by decide
theorem test_wf_tex_past : Instr.wellFormed (some 0x400) (.wr8TextureParams 0x04000 0x404 0) = false := by
  decide
theorem test_wf_gx_mapped : Instr.wellFormed none (.rd8GxUnmapped 0x04000 0x355) = false ∧
    Instr.wellFormed none (.wr8GxUnmapped 0x04000 0x603 0) = false := by decide
theorem test_wf_irq_mapped : Instr.wellFormed none (.rd8IrqUnmapped 0x04000 0x208) = false ∧
    Instr.wellFormed none (.wr8IrqUnmapped 0x04000 0x217 0) = false := by decide
theorem test_wf_port : Instr.wellFormed none (.refusedPort 0x06) = false := by decide
theorem test_wf_arity : Instr.wellFormed none (.setMode []) = false ∧
    Instr.wellFormed none (.push [0]) = false ∧ Instr.wellFormed none (.pop []) = false ∧
    Instr.wellFormed none (.storeToStack [0, 0]) = false ∧
    Instr.wellFormed none (.restoreFromStack []) = false ∧
    Instr.wellFormed none (.loadIdentity [0]) = false ∧
    Instr.wellFormed none (.loadMatrix (List.replicate 15 0)) = false ∧
    Instr.wellFormed none (.multiply (List.replicate 17 0)) = false := by decide
theorem test_wf_raise : Instr.wellFormed none (.raise 14) = false ∧
    Instr.wellFormed none (.raise 13) = true := by decide

/-! ### Decoding: a word from the spec for every constructor

CMD: R112's tags. BUS: R119's match and R118's example words. PORT: R120's codes. -/

theorem test_decode_cmd :
    decode none (.cmd ⟨0x10, [0x00000003]⟩) = .ok (.setMode [3]) ∧
    decode none (.cmd ⟨0x11, []⟩) = .ok (.push []) ∧
    decode none (.cmd ⟨0x12, [0x00000041]⟩) = .ok (.pop [0x41]) ∧
    decode none (.cmd ⟨0x13, [0x00000005]⟩) = .ok (.storeToStack [5]) ∧
    decode none (.cmd ⟨0x14, [0x00000000]⟩) = .ok (.restoreFromStack [0]) ∧
    decode none (.cmd ⟨0x15, []⟩) = .ok (.loadIdentity []) ∧
    decode none (.cmd ⟨0x16, List.replicate 16 0⟩) = .ok (.loadMatrix (List.replicate 16 0)) ∧
    decode none (.cmd ⟨0x18, List.replicate 16 1⟩) = .ok (.multiply (List.replicate 16 1)) ∧
    decode none (.cmd ⟨0x40, [0x00000001]⟩) = .ok (.opaqueCmd 0x40 [1]) := by
  refine ⟨rfl, rfl, rfl, rfl, rfl, rfl, rfl, rfl, rfl⟩

theorem test_decode_refused_tags :
    decode none (.cmd ⟨0x17, []⟩) = .ok (.refusedTag17 []) ∧
    decode none (.cmd ⟨0x19, []⟩) = .ok (.refusedTag19 []) ∧
    decode none (.cmd ⟨0x1A, []⟩) = .ok (.refusedTag1A []) ∧
    decode none (.cmd ⟨0x1B, []⟩) = .ok (.refusedTag1B []) ∧
    decode none (.cmd ⟨0x1C, []⟩) = .ok (.refusedTag1C []) := by
  refine ⟨rfl, rfl, rfl, rfl, rfl⟩

theorem test_decode_gx_reads :
    decode none (.bus 0x0352 0x04000352 0) = .ok (.rd8ClearColor 0x04000 2) ∧
    decode none (.bus 0x0355 0x04000355 0) = .ok (.rd8ClearDepth 0x04000 1) ∧
    decode (some 0x400) (.bus 0x0401 0x04000401 0) = .ok (.rd8TextureParams 0x04000 0x401) ∧
    decode none (.bus 0x0602 0x04000602 0) = .ok (.rd8Gxstat 0x04000 2) ∧
    decode none (.bus 0x0356 0x04000356 0) = .ok (.rd8GxUnmapped 0x04000 0x356) := by
  refine ⟨rfl, rfl, rfl, rfl, rfl⟩

theorem test_decode_gx_writes :
    decode none (.bus 0x1352 0x04000352 0xAB) = .ok (.wr8ClearColor 0x04000 2 0xAB) ∧
    decode none (.bus 0x1354 0x04000354 0xFF) = .ok (.wr8ClearDepth 0x04000 0 0xFF) ∧
    decode (some 0x400) (.bus 0x1403 0x04000403 0x12) = .ok (.wr8TextureParams 0x04000 0x403 0x12) ∧
    decode none (.bus 0x1603 0x04000603 0x80) = .ok (.wr8Gxstat 0x04000 3 0x80) ∧
    decode none (.bus 0x1357 0x04000357 0xFF) = .ok (.wr8GxUnmapped 0x04000 0x357 0xFF) := by
  refine ⟨rfl, rfl, rfl, rfl, rfl⟩

theorem test_decode_irq_reads :
    decode none (.bus 0x2208 0x04000208 0) = .ok (.rd8MasterEnable 0x04000 0) ∧
    decode none (.bus 0x2213 0x04000213 0) = .ok (.rd8Enable 0x04000 3) ∧
    decode none (.bus 0x2215 0x04000215 0) = .ok (.rd8Request 0x04000 1) ∧
    decode none (.bus 0x2200 0x04000200 0) = .ok (.rd8IrqUnmapped 0x04000 0x200) := by
  refine ⟨rfl, rfl, rfl, rfl⟩

theorem test_decode_irq_writes :
    decode none (.bus 0x3208 0x04000208 0x01) = .ok (.wr8MasterEnable 0x04000 0 1) ∧
    decode none (.bus 0x3211 0x04000211 0x01) = .ok (.wr8Enable 0x04000 1 1) ∧
    decode none (.bus 0x3214 0x04000214 0x01) = .ok (.wr8Request 0x04000 0 1) ∧
    decode none (.bus 0x3350 0x04000350 0x01) = .ok (.wr8IrqUnmapped 0x04000 0x350 1) := by
  refine ⟨rfl, rfl, rfl, rfl⟩

theorem test_decode_port :
    decode none (.port 0x01 0) = .ok .exec ∧ decode none (.port 0x02 0) = .ok .tick ∧
    decode none (.port 0x03 0x0D) = .ok (.raise 13) ∧
    decode none (.port 0x04 0x03) = .ok (.testset 3) ∧
    decode none (.port 0x05 0) = .ok .poll ∧ decode none (.port 0x06 0) = .ok .reset ∧
    decode none (.port 0x07 0) = .ok (.refusedPort 7) ∧
    decode none (.port 0x00 0) = .ok (.refusedPort 0) := by
  refine ⟨rfl, rfl, rfl, rfl, rfl, rfl, rfl, rfl⟩

theorem test_decode_mismatch :
    decode none (.bus 0x1352 0x04000353 0) = .error .busOffsetMismatch := rfl

/-- L1.8's second write: 0x1351 with 0xBE, as an opcode-table word placed first. -/
theorem test_table_words :
    decodeTableWord 16 0x1351 = some (.wr8ClearColor 0 1 0) ∧ decodeTableWord 8 0x10 = some (.setMode [0]) ∧
    decodeTableWord 8 0x06 = some .reset ∧ decodeTableWord 8 0x40 = some (.opaqueCmd 0x40 []) := by
  refine ⟨rfl, rfl, rfl, rfl⟩

/-! ### Register bank (L2.1) -/

theorem test_rb1 : after State.result (.rd8ClearColor 0x04000 2) (at_ { blk with clearColor := 0x11223344 })
    = some (.byte 0x22) := by decide
theorem test_rb2 : after (·.blk.clearColor) (.wr8ClearColor 0x04000 2 0xAB) (at_ blk)
    = some 0x00AB0000 := by decide
theorem test_l1_4 : after (·.blk.clearColor) (.wr8ClearColor 0x04000 2 0xAB)
    (at_ { blk with clearColor := 0x11223344 }) = some 0x11AB3344 := by decide
theorem test_rb4 : after (·.blk.clearDepth) (.wr8ClearDepth 0x04000 0 0xFF)
    (at_ { blk with clearDepth := 0x1234 }) = some 0x12FF := by decide
theorem test_rb5 : after State.result (.rd8ClearDepth 0x04000 1) (at_ { blk with clearDepth := 0x7FFF })
    = some (.byte 0x7F) := by decide
theorem test_rb6 : after (fun t => (t.result, t.blk.diag)) (.rd8GxUnmapped 0x04000 0x356) (at_ blk)
    = some (.byte 0, [⟨.unmappedRead, 0x04000356⟩]) := by decide
theorem test_rb7 : after (fun t => (t.blk.clearDepth, t.blk.diag)) (.wr8GxUnmapped 0x04000 0x357 0xFF)
    (at_ blk) = some (0, [⟨.unmappedWrite, 0x04000357⟩]) := by decide
theorem test_rb9 : after (·.blk.texParams) (.wr8TextureParams 0x04000 0x403 0x12) (atTex blk)
    = some 0x12000000 := by decide
theorem test_rb10 : after State.result (.rd8TextureParams 0x04000 0x401)
    (atTex { blk with texParams := 0xDEADBEEF }) = some (.byte 0xBE) := by decide
/-- RB12: 8 entries held, OVERFLOW, IRQ_MODE 2. -/
theorem test_rb12 :
    ({ blk with
        pipe := List.replicate 4 ⟨0x11, []⟩, queue := List.replicate 4 ⟨0x11, []⟩
        overflow := true, irqMode := 2 } : Blk).gxstatValue = 0x88088000 := by decide
theorem test_rb16 : after State.result (.rd8Gxstat 0x04000 1)
    (at_ { blk with overflow := true, underflow := true, test := 3 }) = some (.byte 0xC0) := by decide
theorem test_rb17 : after (fun t => (t.blk.overflow, t.blk.underflow)) (.wr8Gxstat 0x04000 1 0x80)
    (at_ { blk with overflow := true, underflow := true }) = some (false, true) := by decide
/-- RB24: an address outside the page. -/
theorem test_rb24 : after (fun t => (t.result, t.blk.fault)) (.rd8Gxstat 0x05000 0) (at_ blk)
    = some (.raised (.wiring 0x05000600), some (.wiring 0x05000600)) := by decide

/-! ### Interrupt controller (L2.5) -/

theorem test_ic1 : after State.result (.rd8Enable 0x04000 1) (at_ { blk with IE := 0x3FFF })
    = some (.byte 0x3F) := by decide
theorem test_ic2 : after (·.blk.IE) (.wr8Enable 0x04000 1 0xFF) (at_ { blk with IE := 1 })
    = some 0x3F01 := by decide
theorem test_ic6 : after (·.blk.IME) (.wr8MasterEnable 0x04000 0 0x02) (at_ { blk with IME := 1 })
    = some 0 := by decide
theorem test_ic7 : after (·.blk.IME) (.wr8MasterEnable 0x04000 1 0x00) (at_ { blk with IME := 1 })
    = some 1 := by decide
theorem test_ic8 : after State.result (.rd8MasterEnable 0x04000 0) (at_ { blk with IME := 1 })
    = some (.byte 0x01) := by decide
theorem test_ic9 : after (fun t => (t.result, t.blk.IF)) (.rd8Request 0x04000 1)
    (at_ { blk with IF := 0x0101 }) = some (.byte 0x01, 0x0101) := by decide
theorem test_ic10 : after (·.blk.IF) (.wr8Request 0x04000 1 0x01) (at_ { blk with IF := 0x0101 })
    = some 0x0001 := by decide
theorem test_ic13 : after (·.blk.IF) (.wr8Request 0x04000 1 0xC0) (at_ { blk with IF := 0x2000 })
    = some 0x2000 := by decide
theorem test_ic14 : after (·.blk.IF) (.raise 13) (at_ blk) = some 0x2000 := by decide
theorem test_ic15 : after (fun t => (t.result, t.blk.refused, t.blk.IF)) (.raise 14) (at_ blk)
    = some (.refused (.source 14), true, 0) := by decide
theorem test_ic16 : after State.result .poll (at_ { blk with IE := 2, IME := 1, IF := 1 })
    = some (.flag false) := by decide
theorem test_ic17 : after State.result .poll (at_ { blk with IE := 3, IME := 1, IF := 2 })
    = some (.flag true) := by decide
theorem test_ic18 : after (fun t => (t.result, t.blk.diag)) (.rd8IrqUnmapped 0x04000 0x200) (at_ blk)
    = some (.byte 0, [⟨.unmappedRead, 0x04000200⟩]) := by decide
/-- R87 on the IRQ page, as RB7 has it on the GX page. -/
theorem test_irq_unmapped_write : after (fun t => (t.blk.IE, t.blk.diag))
    (.wr8IrqUnmapped 0x04000 0x350 0xFF) (at_ blk)
    = some (0, [⟨.unmappedWrite, 0x04000350⟩]) := by decide

/-- R48's table at its ends, and P3's source. -/
theorem test_sources : IrqSource.vblank.bit = 0 ∧ IrqSource.dma0.bit = 8 ∧ IrqSource.gamePak.bit = 13 := by
  decide

/-- R154: 0x356 and 0x357 are no part of ClearDepth and read 0x00. -/
theorem test_past_clear_depth :
    after State.result (.rd8GxUnmapped 0x04000 0x356) (at_ { blk with clearDepth := 0x7FFF }) =
      some (.byte 0x00) ∧
    after State.result (.rd8GxUnmapped 0x04000 0x357) (at_ { blk with clearDepth := 0x7FFF }) =
      some (.byte 0x00) := by decide

/-! ### Pseudo-operations (R124) -/

/-- L1.8's four writes as one WR32. -/
theorem test_wr32 : wr32 .gx 0x04000 0x350 0xDEADBEEF =
    [.bus 0x1350 0x04000350 0xEF, .bus 0x1351 0x04000351 0xBE, .bus 0x1352 0x04000352 0xAD,
      .bus 0x1353 0x04000353 0xDE] := by decide
theorem test_rd16 : rd16 .irq 0x04000 0x210 = [.bus 0x2210 0x04000210 0, .bus 0x2211 0x04000211 0] := by
  decide
theorem test_join : joinWord 0x11 0xAB 0x33 0x44 = 0x11AB3344 ∧ joinHalf 0x12 0xFF = 0x12FF := by decide
/-- P2's line 11 on one entry: EXEC, and EXECALL still to go; then its end. -/
theorem test_execall :
    nextOp { blk with pipe := [⟨0x11, []⟩] } [.execAll] = some ⟨.port 0x01 0, none, [.execAll]⟩ ∧
    nextOp blk [.execAll, .op (.port 0x05 0)] = some ⟨.port 0x05 0, none, []⟩ ∧
    nextOp blk [.execAll] = none := by decide

/-- Whether a program of EXECALL alone, with others' operations in between, ends with no entry held. -/
def drained (rounds : List (List RawOp)) (s : State) : Bool :=
  match runProgram rounds [.execAll] (.start s) with
  | .next t => t.state.blk.count == 0
  | .fault _ => false
  | .refused _ => false

/-- The results of a program's wide reads, with others' operations in between. -/
def valuesOf (rounds : List (List RawOp)) (program : List Line) (s : State) :
    Option (List (Option ReadValue)) :=
  match runProgram rounds program (.start s) with
  | .next t => some t.values
  | .fault _ => none
  | .refused _ => none

/-- L1.4: after `WR8 GX:0x352, 0xAB` on 0x11223344, `RD32 GX:0x350` is 0x11AB3344. -/
theorem test_l1_4_rd32 :
    valuesOf [[], [], [], [], []]
      (.op (.bus 0x1352 0x04000352 0xAB) :: Line.rd32 .gx 0x04000 0x350)
      (at_ { blk with clearColor := 0x11223344 }) = some [some (.word 0x11AB3344)] := by decide
/-- R358: an EXEC between the bytes of `RD16 GX:0x602` changes what the second byte is read from: of the
value 0x08010000 with one entry held, byte 2 is read before it and byte 3 after it. -/
theorem test_rd16_interleaved :
    valuesOf [[], [.port 0x01 0]] (Line.rd16 .gx 0x04000 0x602) (holding 0x11 [] blk) =
      some [some (.half 0x0001)] := by decide
/-- R86: on the wrong page no byte is returned, so there is no result (log 19). -/
theorem test_rd32_wrong_page :
    valuesOf [[], [], [], []] (Line.rd32 .gx 0x00001 0x350) (at_ blk) = some [none] := by decide

/-- R124: an entry enqueued after the first EXEC is executed too; after a RESET there is nothing to do. -/
theorem test_execall_interleaved :
    drained [[], [.cmd ⟨0x15, []⟩], [.cmd ⟨0x40, []⟩], []] (holding 0x11 [] blk) = true ∧
    drained [[.port 0x06 0], []] (holding 0x11 [] blk) = true := by decide

/-! ### Command queue (L2.2) -/

theorem test_q1 : after (fun t => (t.result, t.blk.pipe, t.blk.queue)) (.push []) (at_ blk)
    = some (.accepted, [⟨0x11, []⟩], []) := by decide
/-- L1.7: the fifth entry goes to the queue. -/
theorem test_l1_7 : after (fun t => (t.blk.pipe.length, t.blk.queue)) (.loadIdentity [])
    (at_ { blk with pipe := List.replicate 4 ⟨0x11, []⟩ }) = some (4, [⟨0x15, []⟩]) := by decide
theorem test_q6 : after State.result (.loadMatrix (List.replicate 15 0)) (at_ blk)
    = some (.refused (.arity 0x16 15)) := by decide
theorem test_q7 : after State.result (.push [0]) (at_ blk) = some (.refused (.arity 0x11 1)) := by
  decide
theorem test_q8 : after State.result (.opaqueCmd 0x40 []) (at_ blk) = some .accepted := by decide
theorem test_q9 : stop .exec (at_ blk) = some .execNotEnabled := by decide
/-- Q10, with A a Push in mode 0. -/
theorem test_q10 : after (fun t => (t.blk.pipe.map (·.tag), t.blk.queue.map (·.tag))) .exec
    (at_ { blk with
      pipe := [⟨0x11, []⟩, ⟨0x41, []⟩, ⟨0x42, []⟩, ⟨0x43, []⟩]
      queue := [⟨0x44, []⟩, ⟨0x45, []⟩] })
    = some ([0x41, 0x42, 0x43, 0x44], [0x45]) := by decide
theorem test_q12 : after (fun t => (t.rendered, t.blk.count)) .exec (holding 0x40 [1] blk)
    = some ([⟨0x40, [1]⟩], 0) := by decide
theorem test_q13 : stop .exec (at_ { blk with
    pipe := [⟨0x11, []⟩], fault := some (.stackIndex .projection 1) }) = some .execNotEnabled := by
  decide
/-- R182: the five tags are refused. -/
theorem test_refused_tags :
    after State.result (.refusedTag17 []) (at_ blk) = some (.refused (.tag 0x17)) ∧
    after State.result (.refusedTag19 []) (at_ blk) = some (.refused (.tag 0x19)) ∧
    after State.result (.refusedTag1A []) (at_ blk) = some (.refused (.tag 0x1A)) ∧
    after State.result (.refusedTag1B []) (at_ blk) = some (.refused (.tag 0x1B)) ∧
    after State.result (.refusedTag1C []) (at_ blk) = some (.refused (.tag 0x1C)) := by decide

/-! ### Backpressure (P6, R354) -/

/-- P6's steps 3 to 5 in the system: the bus agent, EXEC, the bus agent. -/
def p6 : System where
  core := at_ { blk with
    pipe := List.replicate 4 ⟨0x11, []⟩, queue := List.replicate 256 ⟨0x11, []⟩ }
  program := [.cmd ⟨0x11, []⟩]
  turns := [.bus, .port 0x01 0, .bus]

/-- The system's state after `n` turns. -/
def turnsOf : Nat → System → Option System
  | 0, y => some y
  | n + 1, y =>
    match y.step with
    | .next z => turnsOf n z
    | .fault _ => none
    | .refused _ => none

set_option maxRecDepth 20000 in
theorem test_p6_held : (turnsOf 1 p6).map (fun y => (y.program.length, y.core.overrun)) = some (1, false) := by
  rfl
set_option maxRecDepth 20000 in
theorem test_p6_accepted : (turnsOf 3 p6).map
    (fun y => (y.program.length, y.core.result, y.core.blk.count, y.core.overrun, y.core.blk.spProj))
    = some (0, .accepted, 260, false, 1) := by
  rfl
set_option maxRecDepth 20000 in
/-- Q4, the block alone: Full, and the mark. -/
theorem test_q4 : after (fun t => (t.result, t.overrun)) (.push []) p6.core = some (.full, true) := by rfl

/-! ### Matrix engine (L2.3) -/

/-- The matrix with `a` at row 0, column 0 and `b` at row 0, column 1. -/
def row2 (a b : Word) : Matrix :=
  Vector.ofFn fun i => Vector.ofFn fun j => if i = 0 ∧ j = 0 then a else if i = 0 ∧ j = 1 then b else 0

/-- The matrix with `a` at row 0, column 0 and `b` at row 1, column 0. -/
def col2 (a b : Word) : Matrix :=
  Vector.ofFn fun i => Vector.ofFn fun j => if i = 0 ∧ j = 0 then a else if i = 1 ∧ j = 0 then b else 0

theorem test_m3 : productElement (row2 0x800 0) (row2 0xFFFFFFFF 0) 0 0 = 0xFFFFFFFF := by decide
theorem test_m4 : productElement (row2 0x800 0) (row2 0x00000001 0) 0 0 = 0 := by decide
theorem test_m5 : productElement (row2 0x7FFFF000 0) (row2 0x2000 0) 0 0 = 0xFFFFE000 := by decide
theorem test_m7 : productElement (row2 0x40000000 0x40000000) (col2 0x4000 0x4000) 0 0 = 0 := by decide
/-- The order discriminator: O·C has 2 at [0][0], C·O has 2 at [1][1]. -/
theorem test_order :
    let O : Matrix := matrixOperand [0x1000, 0x1000, 0, 0, 0, 0x1000, 0, 0, 0, 0, 0x1000, 0, 0, 0, 0, 0x1000]
    let C : Matrix := matrixOperand [0x1000, 0, 0, 0, 0x1000, 0x1000, 0, 0, 0, 0, 0x1000, 0, 0, 0, 0, 0x1000]
    (product .left O C)[0][0] = 0x2000 ∧ (product .right O C)[1][1] = 0x2000 ∧
    (product .right O C)[0][0] = 0x1000 := by decide

theorem test_m9 : after (·.blk.mode) .exec (holding 0x10 [6] blk) = some .positionVector := by decide
theorem test_m10 : after (fun t => (t.blk.Pos, t.blk.Vec)) .exec
    (holding 0x15 [] { blk with mode := .position, Vec := diag 5 })
    = some (diag 0x1000, diag 5) := by decide
theorem test_m12 : after (·.blk.P) .exec
    (holding 0x16 [0x2000, 1, 0, 0, 0, 0x2000, 0, 0, 0, 0, 0x2000, 0, 0, 0, 0, 0x1000] blk)
    = some (Vector.ofFn fun i => Vector.ofFn fun j =>
        if i = 0 ∧ j = 1 then 1 else if i = j then (if i = 3 then 0x1000 else 0x2000) else 0) := by decide
theorem test_m14 : after (fun t => (t.blk.Pos, t.blk.Vec)) .exec
    (holding 0x18 [0x1800, 0, 0, 0, 0, 0x1800, 0, 0, 0, 0, 0x1800, 0, 0, 0, 0, 0x1800]
      { blk with mode := .positionVector, Pos := diag 0x1000, Vec := diag 0x2000 })
    = some (diag 0x1800, diag 0x3000) := by decide
theorem test_m16 : after (fun t => (t.blk.overflow, t.blk.spProj)) .exec
    (holding 0x11 [] { blk with spProj := 1 }) = some (true, 1) := by decide
theorem test_m17 : after (fun t => (t.blk.posStack[30], t.blk.vecStack[30], t.blk.spPv)) .exec
    (holding 0x11 [] { blk with mode := .position, Pos := diag 5, Vec := diag 6, spPv := 30 })
    = some (diag 5, diag 6, 31) := by decide
theorem test_m21 : after (fun t => (t.blk.fault, t.blk.spProj)) .exec
    (holding 0x12 [0] { blk with spProj := 1 })
    = some (some (.stackIndex .projection 1), 1) := by decide
theorem test_m22 : after (fun t => (t.blk.spPv, t.blk.Pos, t.blk.Vec)) .exec
    (holding 0x12 [0x41] { blk with
      mode := .positionVector, spPv := 3
      posStack := (Vector.replicate 31 (diag 0)).set 2 (diag 7)
      vecStack := (Vector.replicate 31 (diag 0)).set 2 (diag 8) })
    = some (2, diag 7, diag 8) := by decide
theorem test_m23 : after (fun t => (t.blk.underflow, t.blk.spPv, t.blk.Pos)) .exec
    (holding 0x12 [0x3F] { blk with mode := .position, spPv := 31, Pos := diag 9 })
    = some (true, 0, diag 9) := by decide
theorem test_m25 : after (fun t => (t.blk.posStack[5], t.blk.vecStack[5], t.blk.spPv)) .exec
    (holding 0x13 [5] { blk with mode := .positionVector, Pos := diag 5, Vec := diag 6 })
    = some (diag 5, diag 6, 0) := by decide
theorem test_m27 : after (·.blk.overflow) .exec (holding 0x13 [0x21] blk) = some true := by decide
theorem test_m28 : after (fun t => (t.blk.T, t.blk.spTex)) .exec
    (holding 0x14 [0] { blk with mode := .texture, texStack := Vector.replicate 1 (diag 3) })
    = some (diag 3, 0) := by decide
theorem test_m29 : after (fun t => (t.blk.overflow, t.blk.T)) .exec
    (holding 0x14 [1] { blk with mode := .texture, T := diag 4 }) = some (true, diag 4) := by decide

/-! ### GXSTAT bridge (L2.4) and reset (L2.6) -/

/-- R265 after an execution step that faults: M21's Pop was the last entry, so mode 2's condition became
true, as in B1. -/
theorem test_recompute_after_fault : after (fun t => (t.blk.fault, t.blk.pending, t.blk.prevCond)) .exec
    (holding 0x12 [0] { blk with spProj := 1, irqMode := 2 })
    = some (some (.stackIndex .projection 1), [2], true) := by decide

theorem test_b1 : after (fun t => (t.blk.pending, t.blk.prevCond)) .exec
    (holding 0x11 [] { blk with irqMode := 2 }) = some ([2], true) := by decide
theorem test_b2 : after (fun t => (t.blk.irqMode, t.blk.pending, t.blk.prevCond))
    (.wr8Gxstat 0x04000 3 0x80) (at_ blk) = some (2, [2], true) := by decide
theorem test_b5 : after (fun t => (t.blk.pending, t.blk.prevCond)) (.push [])
    (at_ { blk with irqMode := 2, prevCond := true }) = some ([], false) := by decide
theorem test_b10 : after (fun t => (t.blk.pending, t.blk.IF)) .tick (at_ { blk with pending := [2, 1] })
    = some ([1], 0x0100) := by decide
theorem test_b8 : after (fun t => (t.blk.pending, t.blk.IF)) .tick (at_ { blk with pending := [2] })
    = some ([1], 0) := by decide
theorem test_b15 : after (·.blk.test) (.testset 0x03) (at_ blk) = some 3 := by decide
theorem test_b16 : after (·.blk.test) (.testset 0xFE) (at_ blk) = some 2 := by decide
theorem test_x1 : after (fun t => (t.result, t.blk.refused)) (.refusedPort 7) (at_ blk)
    = some (.refused (.port 7), true) := by decide
theorem test_x2 : ((at_ blk).configure (some 0x352)).result = .refused .config := by decide
theorem test_x3 : after (fun t => (t.blk.queue, t.blk.pending, t.blk.IE, t.blk.overflow, t.blk.gxstatValue))
    .reset (at_ { blk with
      queue := List.replicate 10 ⟨0x11, []⟩, pending := [3], IE := 1, overflow := true })
    = some ([], [], 0, false, 0) := by decide
theorem test_x4 : after (·.blk.refused) .reset (at_ { blk with refused := true }) = some true := by
  decide

/-! ### Witnesses: states and operands that meet the hypotheses of each statement

Named after the statement; a statement with several clauses has one conjunct for each, at the boundary
values of its ranges. -/

/-- A buffer of `p` and `q` entries. -/
def buffers (p q : Nat) : Blk :=
  { blk with pipe := List.replicate p ⟨0x11, []⟩, queue := List.replicate q ⟨0x11, []⟩ }

theorem inv_buffers (p q : Nat) (hp : p ≤ 4) (hq : q ≤ 256) (h : q ≠ 0 → p = 4) :
    Inv (at_ (buffers p q)) where
  pipeLe := by simpa [at_, buffers, Config.pipeCap] using hp
  queueLe := by simpa [at_, buffers, Config.queueCap] using hq
  refilled := by simpa [at_, buffers, Config.pipeCap] using h
  accepted := by
    intro e he
    have : e = ⟨0x11, []⟩ := by
      simp only [at_, buffers, Blk.held, List.mem_append, List.mem_replicate] at he
      tauto
    subst this
    decide
  spProjLe := Nat.zero_le _
  spPvLe := Nat.zero_le _
  spTexLe := Nat.zero_le _
  pendingLe := by simp [at_, buffers, blk]
  prevCond := rfl
  cfgLegal := (by decide : paramsLegal cfg = true)

theorem witness_StepPerformsTheDecodedOperation :
    (({ at_ blk with inputs := [.port 0x05 0] } : State).inputs = .port 0x05 0 :: [] ∧
      decode (at_ blk).cfg.texOffset (.port 0x05 0) = .ok .poll) ∧
    decode (at_ blk).cfg.texOffset (rawOfTable 16 0x2208) = .ok (.rd8MasterEnable 0 0) :=
  ⟨⟨rfl, rfl⟩, rfl⟩

theorem witness_StepStopsWithoutADecodedOperation :
    (at_ blk).inputs = [] ∧
    (({ at_ blk with inputs := [.bus 0x1352 0x04000353 0] } : State).inputs =
        .bus 0x1352 0x04000353 0 :: [] ∧
      BitVec.extractLsb' 0 12 (0x1352 : BusWord) ≠ BitVec.extractLsb' 0 12 (0x04000353 : Addr)) ∧
    (({ at_ blk with inputs := [.port 0x02 0] } : State).inputs = .port 0x02 0 :: [] ∧
      decode (at_ blk).cfg.texOffset (.port 0x02 0) = .ok .tick ∧ Instr.tick ≠ .exec) :=
  ⟨rfl, ⟨rfl, by decide⟩, rfl, rfl, by decide⟩

/-- The TEXPARAMS_OFFSETs next to the ranges R81 forbids are legal, and their rows have instructions. -/
theorem witness_DecodeOfEncodeIsIdentity :
    texOffsetLegal none = true ∧ texOffsetLegal (some 0x000) = true ∧
    texOffsetLegal (some 0xFFC) = true ∧
    (texOffsetLegal (some 0x34C) = true ∧ (Instr.rd8TextureParams 0 0x34F).inRow (some 0x34C) = true) ∧
    (texOffsetLegal (some 0x358) = true ∧ (Instr.wr8TextureParams 0 0x358 1).inRow (some 0x358) = true) ∧
    (texOffsetLegal (some 0x5FC) = true ∧ (Instr.rd8GxUnmapped 0 0x604).inRow (some 0x5FC) = true) ∧
    (texOffsetLegal (some 0x604) = true ∧ (Instr.rd8GxUnmapped 0 0x5FF).inRow (some 0x604) = true) := by
  decide

theorem witness_EncodeOfDecodeIsCanonical :
    texOffsetLegal (some 0x400) = true ∧
    decode (some 0x400) (.bus 0x0401 0x04000401 0x55) = .ok (.rd8TextureParams 0x04000 0x401) ∧
    BitVec.extractLsb' 0 12 (0x0401 : BusWord) = BitVec.extractLsb' 0 12 (0x04000401 : Addr) :=
  ⟨by decide, rfl, by decide⟩

theorem witness_BusRowsAgreeWithBusDispatch :
    texOffsetLegal (at_ blk).cfg.texOffset = true ∧ texOffsetLegal (atTex blk).cfg.texOffset = true := by
  decide

/-- For the statements whose hypotheses are a legal TEXPARAMS_OFFSET or the right page selector, at every
byte index: ReadClearColorReturnsItsByte, WriteClearColorReplacesItsByte, ClearDepthBytesReadAndWrite,
ReadGxstatReturnsItsByte, WriteGxstatClearsFlagsAndSetsMode, InterruptRegisterReadsReturnTheirByte,
WriteEnableReplacesItsByteMasked, WriteMasterEnableKeepsBitZero, WriteRequestClearsOnOnes. -/
theorem witness_register_accesses :
    texOffsetLegal (at_ blk).cfg.texOffset = true ∧ (0x04000 : PageSel) = (at_ blk).cfg.gxPage ∧
    (0x04000 : PageSel) = (at_ blk).cfg.irqPage := by decide

theorem witness_TextureParamsBytesReadAndWrite :
    (atTex blk).cfg.texOffset = some 0x400 ∧ texOffsetLegal (some 0x400) = true ∧
    (0x04000 : PageSel) = (atTex blk).cfg.gxPage := by decide

theorem witness_PlainByteWriteIsReadBackAlone :
    texOffsetLegal (atTex blk).cfg.texOffset = true ∧ (0x04000 : PageSel) = (atTex blk).cfg.gxPage ∧
    (busAccess (.wr8ClearColor 0x04000 3 1) = some (.gx, addrOf 0x04000 0x353, some 1) ∧
      regAt (atTex blk).cfg.texOffset .gx 0x353 = some (.clearColor, 3)) ∧
    (busAccess (.wr8ClearDepth 0x04000 1 1) = some (.gx, addrOf 0x04000 0x355, some 1) ∧
      regAt (atTex blk).cfg.texOffset .gx 0x355 = some (.clearDepth, 1)) ∧
    (busAccess (.wr8TextureParams 0x04000 0x403 1) = some (.gx, addrOf 0x04000 0x403, some 1) ∧
      regAt (atTex blk).cfg.texOffset .gx 0x403 = some (.texParams, 3)) := by decide

theorem witness_WrongPageRaisesWiringFault :
    (busAccess (.rd8Gxstat 0x05000 0) = some (.gx, 0x05000600, none) ∧
      BitVec.extractLsb' 12 20 (0x05000600 : Addr) ≠ (at_ blk).cfg.selector .gx) ∧
    (busAccess (.wr8Request 0x04001 0 1) = some (.irq, 0x04001214, some 1) ∧
      BitVec.extractLsb' 12 20 (0x04001214 : Addr) ≠ (at_ blk).cfg.selector .irq) := by decide

theorem witness_UnmappedOffsetsReadZeroAndIgnoreWrites :
    texOffsetLegal (at_ blk).cfg.texOffset = true ∧ (0x04000 : PageSel) = (at_ blk).cfg.gxPage ∧
    GxUnmapped none 0x34F ∧ GxUnmapped none 0x356 ∧ GxUnmapped none 0x5FF ∧ GxUnmapped none 0x604 ∧
    (0x04000 : PageSel) = (at_ blk).cfg.irqPage ∧
    IrqUnmapped 0x207 ∧ IrqUnmapped 0x20C ∧ IrqUnmapped 0x20F ∧ IrqUnmapped 0x218 :=
  ⟨by decide, by decide, ⟨by decide, by decide, by decide, nofun⟩,
    ⟨by decide, by decide, by decide, nofun⟩, ⟨by decide, by decide, by decide, nofun⟩,
    ⟨by decide, by decide, by decide, nofun⟩, by decide,
    ⟨by decide, by decide, by decide⟩, ⟨by decide, by decide, by decide⟩,
    ⟨by decide, by decide, by decide⟩, ⟨by decide, by decide, by decide⟩⟩

theorem witness_BusReadsAreEffectFree :
    busAccess (.rd8Gxstat 0x04000 3) = some (.gx, 0x04000603, none) ∧
    BitVec.extractLsb' 12 20 (0x04000603 : Addr) = (at_ blk).cfg.selector .gx ∧
    busAccess (.rd8IrqUnmapped 0x05000 0x000) = some (.irq, 0x05000000, none) := by decide

theorem witness_RaiseSetsItsRequestBit : (13 : Byte).toNat ≤ 13 ∧ 13 < (14 : Byte).toNat := by decide

theorem witness_InterruptControllerLeavesGeometryAlone :
    (∃ addr v, busAccess (.wr8Enable 0x04000 0 1) = some (.irq, addr, v)) ∧
    (∃ src, Instr.raise 13 = .raise src) ∧ Instr.poll = .poll := ⟨⟨_, _, rfl⟩, ⟨_, rfl⟩, rfl⟩

theorem witness_GeometryIgnoresInterruptRegisters :
    ∃ t, exec .tick (at_ { blk with pending := [1] }) = .next t ∧ t.blk.pending = [] :=
  ⟨_, rfl, by decide⟩

/-- The two clauses at one delivery, of the machine's own delay. -/
theorem witness_DeliveryIsMadeByTheDthTick :
    1 ≤ 2 ∧ 2 ∈ (at_ { blk with pending := [2] }).blk.pending ∧
    (∀ p ∈ (at_ { blk with pending := [2] }).blk.pending, 2 ≤ p) ∧ 1 < 2 := by decide

theorem witness_DeliveriesAreNeverCancelled :
    ∃ t, exec (.wr8Gxstat 0x04000 3 0) (at_ { blk with irqMode := 2, pending := [1] }) = .next t ∧
      Instr.wr8Gxstat 0x04000 3 0 ≠ .tick ∧ Instr.wr8Gxstat 0x04000 3 0 ≠ .reset :=
  ⟨_, rfl, by decide, by decide⟩

/-- Both outcomes occur: nothing is scheduled, and one delivery is. -/
theorem witness_SchedulingIsEdgeTriggered :
    (∃ t, exec .poll (at_ blk) = .next t ∧ t.blk.pending = (at_ blk).blk.pending) ∧
    (∃ t, exec .exec (holding 0x11 [] { blk with irqMode := 2 }) = .next t ∧ t.blk.pending = [2]) :=
  ⟨⟨_, rfl, rfl⟩, _, rfl, by decide⟩

theorem witness_TriggerConditionFollowsTheMode :
    blk.irqMode = 0 ∧
    (({ buffers 4 128 with irqMode := 1 } : Blk).cond = true ∧
      ({ buffers 4 129 with irqMode := 1 } : Blk).cond = false) ∧
    (({ buffers 0 0 with irqMode := 2 } : Blk).cond = true ∧
      ({ buffers 1 0 with irqMode := 2 } : Blk).cond = false) ∧
    ({ blk with irqMode := 3 } : Blk).irqMode = 3 := by
  refine ⟨rfl, ⟨?_, ?_⟩, ⟨?_, ?_⟩, rfl⟩ <;>
    simp only [buffers, blk, Blk.cond, Blk.half, Blk.empty, Blk.count, Config.halfThreshold,
      List.length_replicate] <;> decide

theorem witness_RequestBitsHaveTheirOnlyWriters :
    (∃ t, exec (.raise 13) (at_ blk) = .next t ∧ blk.IF.getLsbD 13 = false ∧
      t.blk.IF.getLsbD 13 = true) ∧
    (∃ t, exec (.wr8Request 0x04000 1 0x20) (at_ { blk with IF := 0x2000 }) = .next t ∧
      (0x2000 : BitVec 14).getLsbD 13 = true ∧ t.blk.IF.getLsbD 13 = false) :=
  ⟨⟨_, rfl, by decide, by decide⟩, _, rfl, by decide, by decide⟩

theorem witness_TestsetWritesTheTestFlags :
    ∃ t, exec (.testset 3) (at_ blk) = .next t ∧ t.blk.test ≠ (at_ blk).blk.test :=
  ⟨_, rfl, by decide⟩

theorem witness_EnqueueFillsThePipeThenTheQueue :
    Accepts (.push []) ⟨0x11, []⟩ ∧ Accepts (.opaqueCmd 0x40 [1]) ⟨0x40, [1]⟩ ∧
    (buffers 3 0).pipe.length < 4 ∧
    (4 ≤ (buffers 4 255).pipe.length ∧ (buffers 4 255).queue.length < 256) ∧
    (4 ≤ (buffers 4 256).pipe.length ∧ 256 ≤ (buffers 4 256).queue.length) := by
  refine ⟨.push, .opaqueCmd _ _ (by decide), ?_, ⟨?_, ?_⟩, ?_, ?_⟩ <;>
    simp only [buffers, List.length_replicate] <;> decide

/-- The clauses about the system: held, with room, and EXEC's turn at 260 entries. -/
theorem witness_EnqueueFillsThePipeThenTheQueue_system :
    (p6.program = .cmd ⟨0x11, []⟩ :: [] ∧ p6.turns = .bus :: [.port 0x01 0, .bus] ∧
      4 ≤ p6.core.blk.pipe.length ∧ 256 ≤ p6.core.blk.queue.length) ∧
    (({ p6 with core := at_ (buffers 4 255) } : System).core.blk.queue.length < 256) ∧
    (∃ z, Inv (at_ (buffers 4 256)) ∧
      ({ core := at_ (buffers 4 256), program := [], turns := [.port 0x01 0] } : System).step = .next z) :=
  ⟨⟨rfl, rfl, by simp only [p6, at_, List.length_replicate]; decide,
      by simp only [p6, at_, List.length_replicate]; decide⟩,
    by simp only [at_, buffers, List.length_replicate]; decide,
    _, inv_buffers 4 256 (by decide) (by decide) (by decide), rfl⟩

theorem witness_RefusalsOnlySetTheMark :
    (Instr.refusedTag17 [0], (0x17 : Byte)) ∈ [(Instr.refusedTag17 [0], (0x17 : Byte)),
      (.refusedTag19 [0], 0x19), (.refusedTag1A [0], 0x1A), (.refusedTag1B [0], 0x1B),
      (.refusedTag1C [0], 0x1C)] ∧
    ([] : List Word).length ≠ 1 ∧ (List.replicate 17 (0 : Word)).length ≠ 16 ∧
    13 < (14 : Byte).toNat ∧ (0x00 : Byte).toNat = 0 ∧ 7 ≤ (0x07 : Byte).toNat ∧
    ((0x351 : Offset).toNat % 4 ≠ 0) ∧
    (0x350 ≤ (0x34D : Offset).toNat + 3 ∧ (0x34D : Offset).toNat ≤ 0x355) ∧
    (0x600 ≤ (0x600 : Offset).toNat + 3 ∧ (0x600 : Offset).toNat ≤ 0x603) := by
  decide

theorem witness_ExecStepsExactlyWhenEnabled :
    (Inv (at_ (buffers 1 0)) ∧ (buffers 1 0).pipe ≠ [] ∧ (buffers 1 0).fault = none) ∧
    (Inv (at_ (buffers 0 0)) ∧ (buffers 0 0).pipe = []) ∧
    (Inv (at_ { buffers 1 0 with fault := some (.stackIndex .projection 1) }) ∧
      ({ buffers 1 0 with fault := some (.stackIndex .projection 1) } : Blk).fault ≠ none) :=
  have h := inv_buffers 1 0 (by decide) (by decide) (by decide)
  ⟨⟨h, by decide, rfl⟩, ⟨inv_buffers 0 0 (by decide) (by decide) (by decide), rfl⟩,
    ⟨h.1, h.2, h.3, h.4, h.5, h.6, h.7, h.8, h.9, h.10⟩, by decide⟩

theorem witness_OpaqueEntryIsForwarded :
    isOpaqueTag 0x40 = true ∧ (holding 0x40 [1] blk).blk.fault = none ∧
    (holding 0x40 [1] blk).blk.pipe = ⟨0x40, [1]⟩ :: [] := by decide

/-- The FIFO with room and the FIFO full. -/
theorem witness_BuffersAreOneFifo :
    (Inv (at_ (buffers 4 255)) ∧ (buffers 4 255).held.length = 259) ∧
    (Inv (at_ (buffers 4 256)) ∧ (buffers 4 256).held.length = 260) ∧
    Accepts (.push []) ⟨0x11, []⟩ ∧
    (∃ t, exec .exec (at_ (buffers 4 2)) = .next t) ∧
    (cmdEntry .poll = none ∧ Instr.poll ≠ .exec ∧ Instr.poll ≠ .reset ∧
      ∃ t, exec .poll (at_ (buffers 4 2)) = .next t) :=
  ⟨⟨inv_buffers 4 255 (by decide) (by decide) (by decide), by simp only [Blk.held, buffers, List.length_append, List.length_replicate]⟩,
    ⟨inv_buffers 4 256 (by decide) (by decide) (by decide), by simp only [Blk.held, buffers, List.length_append, List.length_replicate]⟩, .push,
    ⟨_, rfl⟩, rfl, by decide, by decide, _, rfl⟩

/-- For CountFollowsEnqueueAndExec and HeldEntriesAreSnapshots: an execution, an enqueue, another. -/
theorem witness_held_entries :
    Inv (at_ (buffers 4 2)) ∧
    (∃ t, exec .exec (at_ (buffers 4 2)) = .next t ∧ Instr.exec ≠ .reset) ∧
    (∃ t, exec (.push []) (at_ (buffers 4 2)) = .next t ∧ t.result = .accepted) ∧
    (∃ t, exec .poll (at_ (buffers 4 2)) = .next t ∧ Instr.poll ≠ .exec ∧ Instr.poll ≠ .reset ∧
      t.result ≠ .accepted) :=
  ⟨inv_buffers 4 2 (by decide) (by decide) (by decide), ⟨_, rfl, by decide⟩, ⟨_, rfl, rfl⟩,
    _, rfl, by decide, by decide, by decide⟩

theorem witness_EnqueuedCommandTakesEffectAtExec :
    ∃ b, Accepts (.push []) ⟨0x11, []⟩ ∧ Entry.command ⟨0x11, []⟩ = some .push ∧
      (at_ blk).blk.held = [] ∧ (at_ blk).blk.fault = none ∧
      applyCommand (at_ blk).cfg.mulOrder .push (at_ blk).blk = .ok b ∧ b.spProj = 1 :=
  ⟨_, .push, rfl, rfl, rfl, rfl, rfl⟩

/-- For SetModeSelectsTheMode, LoadIdentityWritesItsTargets, PushSavesOrOverflows and
StoreToStackStoresOrOverflows: the command at the head of the pipe. -/
theorem witness_command_at_head :
    ((holding 0x10 [6] blk).blk.fault = none ∧ (holding 0x10 [6] blk).blk.pipe = ⟨0x10, [6]⟩ :: []) ∧
    ((holding 0x15 [] blk).blk.fault = none ∧ (holding 0x15 [] blk).blk.pipe = ⟨0x15, []⟩ :: []) ∧
    ((holding 0x11 [] blk).blk.fault = none ∧ (holding 0x11 [] blk).blk.pipe = ⟨0x11, []⟩ :: []) ∧
    ((holding 0x13 [31] blk).blk.fault = none ∧
      (holding 0x13 [31] blk).blk.pipe = ⟨0x13, [31]⟩ :: []) := by decide

/-- For LoadMatrixWritesItsTargets and MultiplyCombinesItsTargets, the latter in either order. -/
theorem witness_matrix_operand :
    (List.replicate 16 (1 : Word)).length = 16 ∧
    ((holding 0x16 (List.replicate 16 1) blk).blk.fault = none ∧
      (holding 0x16 (List.replicate 16 1) blk).blk.pipe = ⟨0x16, List.replicate 16 1⟩ :: []) ∧
    ((holding 0x18 (List.replicate 16 1) blk).blk.fault = none ∧
      (holding 0x18 (List.replicate 16 1) blk).blk.pipe = ⟨0x18, List.replicate 16 1⟩ :: []) ∧
    (holding 0x18 (List.replicate 16 1) blk).cfg.mulOrder = .left ∧
    ({ holding 0x18 (List.replicate 16 1) blk with cfg := { cfg with mulOrder := .right } } :
      State).cfg.mulOrder = .right := by decide

/-- The largest single product, 2^62, and a sum near the bound. -/
theorem witness_ProductElementIsFlooredAndWrapped :
    ((2 : Int) ^ 62 =
      ∑ k : Fin 4, (row2 0x80000000 0)[0][k].toInt * (row2 0x80000000 0)[k][0].toInt) ∧
    (-2 ^ 63 < (2 : Int) ^ 62 ∧ (2 : Int) ^ 62 < 2 ^ 63) ∧
    (2 ^ 62 + 0x80000000 * 0x7FFFFFFF =
      ∑ k : Fin 4, (row2 0x80000000 0x80000000)[0][k].toInt * (col2 0x80000000 0x80000001)[k][0].toInt) ∧
    (-2 ^ 63 < (2 ^ 62 + 0x80000000 * 0x7FFFFFFF : Int) ∧
      (2 ^ 62 + 0x80000000 * 0x7FFFFFFF : Int) < 2 ^ 63) := by
  simp only [Fin.sum_univ_four]
  decide

/-- Pop's three clauses: below zero, onto the last slot, and `n = 0` at `sp = cap`. -/
theorem witness_PopRestoresUnderflowsOrFaults :
    (ByMode.pointer blk < (BitVec.extractLsb' 0 6 (1 : Word)).toNat ∧
      (holding 0x12 [1] blk).blk.pipe = ⟨0x12, [1]⟩ :: []) ∧
    ((BitVec.extractLsb' 0 6 (1 : Word)).toNat ≤
        ByMode.pointer { blk with mode := .position, spPv := 31 } ∧
      ByMode.pointer { blk with mode := .position, spPv := 31 } - 1 < ByMode.capacity .position) ∧
    ((BitVec.extractLsb' 0 6 (0 : Word)).toNat ≤ ByMode.pointer { blk with spProj := 1 } ∧
      ByMode.capacity .projection ≤ ByMode.pointer { blk with spProj := 1 } - 0) := by decide

/-- RestoreFromStack's two clauses, at the capacity 31 and the slot below it. -/
theorem witness_RestoreFromStackRestoresOrOverflows :
    (holding 0x14 [31] { blk with mode := .position }).blk.fault = none ∧
    (holding 0x14 [31] { blk with mode := .position }).blk.pipe = ⟨0x14, [31]⟩ :: [] ∧
    ByMode.capacity .position ≤ (BitVec.extractLsb' 0 5 (31 : Word)).toNat ∧
    (holding 0x14 [30] { blk with mode := .position }).blk.pipe = ⟨0x14, [30]⟩ :: [] ∧
    (BitVec.extractLsb' 0 5 (30 : Word)).toNat < ByMode.capacity .position := by decide

theorem witness_PopUndoesPush :
    ByMode.pointer { blk with mode := .positionVector, spPv := 30 } < ByMode.capacity .positionVector ∧
    ByMode.pointer blk < ByMode.capacity blk.mode := by decide

theorem witness_StickyFlagsHaveTheirOnlyWriters :
    (∃ t, exec .exec (holding 0x13 [1] blk) = .next t ∧ blk.overflow = false ∧ t.blk.overflow = true) ∧
    (∃ t, exec .exec (holding 0x12 [1] blk) = .next t ∧ blk.underflow = false ∧
      t.blk.underflow = true) ∧
    (∃ t, exec (.wr8Gxstat 0x04000 1 0xC0) (at_ { blk with overflow := true, underflow := true }) =
      .next t ∧ t.blk.overflow = false ∧ t.blk.underflow = false) :=
  ⟨⟨_, rfl, rfl, by decide⟩, ⟨_, rfl, rfl, by decide⟩, _, rfl, by decide, by decide⟩

/-- For the statements about any operation with a next state but EXEC and RESET. -/
theorem witness_MatrixEngineChangesOnlyAtExec :
    ∃ t, exec (.push []) (at_ (buffers 4 2)) = .next t ∧ Instr.push [] ≠ .exec ∧
      Instr.push [] ≠ .reset := ⟨_, rfl, by decide, by decide⟩

theorem witness_RunsStartInTheResetState :
    ({ at_ blk with draw := 0 } : State).draw = 0 ∧ (at_ blk).blk.fault = none ∧
    (at_ blk).blk.refused = false ∧ (at_ blk).blk.diag = [] := by decide

set_option maxRecDepth 20000 in
theorem witness_FaultAndRefusalMarksAreSticky :
    (∃ t, exec .reset (at_ { blk with fault := some (.wiring 5), refused := true }) = .next t ∧
      t.blk.fault = some (.wiring 5) ∧ t.blk.refused = true) ∧
    (∃ t, exec (.rd8Gxstat 0x05000 0) (at_ blk) = .next t ∧
      t.result = .raised (.wiring 0x05000600) ∧ (at_ blk).blk.fault = none) ∧
    (∃ t, exec (.raise 14) (at_ blk) = .next t ∧ t.result = .refused (.source 14)) ∧
    (∃ t, exec (.push []) p6.core = .next t ∧ t.result = .full) :=
  ⟨⟨_, rfl, rfl, rfl⟩, ⟨_, rfl, by decide, rfl⟩, ⟨_, rfl, by decide⟩, _, rfl, rfl⟩

theorem witness_DiagnosticsAreNeverRead :
    ∃ t, exec (.rd8GxUnmapped 0x04000 0x356) (at_ blk) = .next t ∧
      t.blk.diag = [⟨.unmappedRead, 0x04000356⟩] := ⟨_, rfl, by decide⟩

theorem witness_EveryOperationButExecAlwaysSteps :
    Instr.tick ≠ .exec ∧ ∃ t, exec .exec (at_ (buffers 1 0)) = .next t := ⟨by decide, _, rfl⟩

theorem witness_StepKeepsTheInvariant :
    ∃ t, Inv { at_ (buffers 4 2) with inputs := [.port 0x01 0] } ∧
      step { at_ (buffers 4 2) with inputs := [.port 0x01 0] } = .next t :=
  have h := inv_buffers 4 2 (by decide) (by decide) (by decide)
  ⟨_, ⟨h.1, h.2, h.3, h.4, h.5, h.6, h.7, h.8, h.9, h.10⟩, rfl⟩

end Sys2Proof.Tests
end

section
/-! SUPPORT. The proofs of the statements about the block's state as a whole: its invariant (O59, O60), the
only writers of Request (O31) and of the sticky flags (O52), and the bookkeeping of faults, refusals and diagnostics
(O56, O57). -/

namespace Sys2Proof.Machine

/-! ### The step, inverted -/

/-- All a step can do when it has a next state (R89): it performs what the first input decodes to. -/
theorem step_next_cases {s t : State} (h : step s = .next t) :
    ∃ op rest i, s.inputs = op :: rest ∧ decode s.cfg.texOffset op = .ok i ∧
      exec i { s with inputs := rest } = .next t := by
  unfold step at h
  split at h
  case h_1 => cases h
  case h_2 op rest hin =>
    split at h
    case h_1 i hi => exact ⟨op, rest, i, hin, hi, h⟩
    case h_2 => cases h

/-! ### The invariant before Recompute

Recompute alone establishes `prev_cond = cond` (R264); the rest of the invariant, `Bounds`, is what the part of an
operation before its Recompute has to keep. -/

/-- The invariant but for `prev_cond`: R38's buffers, R182's entries, R44's pointers, R266's deliveries, legal
parameters. -/
structure Bounds (p : Params) (b : Blk) : Prop where
  pipeLe : b.pipe.length ≤ Config.pipeCap
  queueLe : b.queue.length ≤ Config.queueCap
  refilled : b.queue ≠ [] → b.pipe.length = Config.pipeCap
  accepted : ∀ e ∈ b.held, e.check = none
  spProjLe : b.spProj ≤ Config.projCap
  spPvLe : b.spPv ≤ Config.pvCap
  spTexLe : b.spTex ≤ Config.texCap
  pendingLe : ∀ n ∈ b.pending, 1 ≤ n ∧ n ≤ p.gxIrqDelay
  cfgLegal : paramsLegal p = true

/-- The invariant is `Bounds` and `prev_cond = cond`. -/
theorem inv_iff_bounds (s : State) : Inv s ↔ Bounds s.cfg s.blk ∧ s.blk.prevCond = s.blk.cond where
  mp h := ⟨⟨h.pipeLe, h.queueLe, h.refilled, h.accepted, h.spProjLe, h.spPvLe, h.spTexLe, h.pendingLe, h.cfgLegal⟩,
    h.prevCond⟩
  mpr | ⟨h, hc⟩ => ⟨h.pipeLe, h.queueLe, h.refilled, h.accepted, h.spProjLe, h.spPvLe, h.spTexLe, h.pendingLe, hc,
    h.cfgLegal⟩

/-- `Bounds` depends on the buffers, the pointers and the deliveries only. -/
theorem Bounds.frame {p : Params} {b b' : Blk} (h : Bounds p b) (hpipe : b'.pipe = b.pipe := by rfl)
    (hqueue : b'.queue = b.queue := by rfl) (hproj : b'.spProj = b.spProj := by rfl)
    (hpv : b'.spPv = b.spPv := by rfl) (htex : b'.spTex = b.spTex := by rfl)
    (hpend : b'.pending = b.pending := by rfl) : Bounds p b' := by
  obtain ⟨h1, h2, h3, h4, h5, h6, h7, h8, h9⟩ := h
  constructor <;> simpa only [Blk.held, hpipe, hqueue, hproj, hpv, htex, hpend]

/-- `cond` reads the two buffers and IRQ_MODE only (R263). -/
theorem cond_congr {b b' : Blk} (hpipe : b'.pipe = b.pipe) (hqueue : b'.queue = b.queue)
    (hmode : b'.irqMode = b.irqMode) : b'.cond = b.cond := by
  simp only [Blk.cond, Blk.half, Blk.empty, Blk.count, hpipe, hqueue, hmode]

/-- A change that leaves the fields the invariant speaks of keeps it, without a Recompute (R265). -/
theorem Inv.frame {s t : State} (h : Inv s) (hcfg : t.cfg = s.cfg := by rfl)
    (hpipe : t.blk.pipe = s.blk.pipe := by rfl) (hqueue : t.blk.queue = s.blk.queue := by rfl)
    (hproj : t.blk.spProj = s.blk.spProj := by rfl) (hpv : t.blk.spPv = s.blk.spPv := by rfl)
    (htex : t.blk.spTex = s.blk.spTex := by rfl) (hpend : t.blk.pending = s.blk.pending := by rfl)
    (hmode : t.blk.irqMode = s.blk.irqMode := by rfl) (hprev : t.blk.prevCond = s.blk.prevCond := by rfl) : Inv t := by
  obtain ⟨hb, hc⟩ := (inv_iff_bounds s).1 h
  refine (inv_iff_bounds t).2 ⟨hcfg ▸ hb.frame hpipe hqueue hproj hpv htex hpend, ?_⟩
  rw [hprev, hc, cond_congr hpipe hqueue hmode]

/-- Legal parameters have a delay of at least one tick (R7). -/
theorem one_le_delay {p : Params} (h : paramsLegal p = true) : 1 ≤ p.gxIrqDelay := by
  simp only [paramsLegal, Bool.and_eq_true, decide_eq_true_eq] at h
  exact h.2

/-- Recompute schedules a delivery of `GX_IRQ_DELAY` ticks at most (R264, R266). -/
theorem Bounds.recompute {p : Params} {b : Blk} (h : Bounds p b) : Bounds p (b.recompute p.gxIrqDelay) := by
  rcases recompute_pending_cases p.gxIrqDelay b with hp | ⟨hp, -, -⟩
  · exact h.frame (by simp) (by simp) (by simp) (by simp) (by simp) hp
  · have hpend : ∀ n ∈ b.pending ++ [p.gxIrqDelay], 1 ≤ n ∧ n ≤ p.gxIrqDelay := by
      intro n hn
      rcases List.mem_append.1 hn with hn | hn
      · exact h.pendingLe n hn
      · rw [List.mem_singleton.1 hn]
        exact ⟨one_le_delay h.cfgLegal, le_rfl⟩
    obtain ⟨h1, h2, h3, h4, h5, h6, h7, -, h9⟩ := h
    constructor <;> simpa only [Blk.held, hp, Blk.recompute_pipe, Blk.recompute_queue, Blk.recompute_spProj,
      Blk.recompute_spPv, Blk.recompute_spTex]

/-- An operation that ends with Recompute meets the invariant when the block was within `Bounds` before it (R265). -/
theorem Inv.of_recompute {t : State} {p : Params} {b : Blk} (h : Bounds p b) (hcfg : t.cfg = p)
    (hblk : t.blk = b.recompute p.gxIrqDelay) : Inv t := by
  subst hcfg
  rw [inv_iff_bounds, hblk]
  exact ⟨h.recompute, by rw [(recompute_cond _ b).1, (recompute_cond _ b).2]⟩

/-! ### What each operation keeps -/

/-- R180: an accepted entry put into a pipe that has room; the queue is empty then (R38). -/
theorem Bounds.appendPipe {p : Params} {b : Blk} (h : Bounds p b) {e : Entry} (he : e.check = none)
    (hroom : b.pipe.length < Config.pipeCap) : Bounds p { b with pipe := b.pipe ++ [e] } where
  pipeLe := by simpa using hroom
  queueLe := h.queueLe
  refilled hq := absurd (h.refilled hq) hroom.ne
  accepted x hx := by
    simp only [Blk.held, List.mem_append, List.mem_singleton] at hx
    rcases hx with (hx | rfl) | hx
    · exact h.accepted x (List.mem_append_left _ hx)
    · exact he
    · exact h.accepted x (List.mem_append_right _ hx)
  spProjLe := h.spProjLe
  spPvLe := h.spPvLe
  spTexLe := h.spTexLe
  pendingLe := h.pendingLe
  cfgLegal := h.cfgLegal

/-- R180: an accepted entry put into a queue that has room, behind a full pipe. -/
theorem Bounds.appendQueue {p : Params} {b : Blk} (h : Bounds p b) {e : Entry} (he : e.check = none)
    (hfull : Config.pipeCap ≤ b.pipe.length) (hroom : b.queue.length < Config.queueCap) :
    Bounds p { b with queue := b.queue ++ [e] } where
  pipeLe := h.pipeLe
  queueLe := by simpa using hroom
  refilled _ := le_antisymm h.pipeLe hfull
  accepted x hx := by
    simp only [Blk.held, List.mem_append, List.mem_singleton] at hx
    rcases hx with hx | hx | rfl
    · exact h.accepted x (List.mem_append_left _ hx)
    · exact h.accepted x (List.mem_append_right _ hx)
    · exact he
  spProjLe := h.spProjLe
  spPvLe := h.spPvLe
  spTexLe := h.spTexLe
  pendingLe := h.pendingLe
  cfgLegal := h.cfgLegal

/-- Removal and refill hold no entry that was not held (R183). -/
theorem mem_held_of_mem_takeHead_held {b : Blk} {e : Entry} (h : e ∈ b.takeHead.held) : e ∈ b.held := by
  simp only [Blk.held, Blk.takeHead_pipe, Blk.takeHead_queue, List.mem_append] at h ⊢
  rcases h with (h | h) | h
  · exact .inl (List.mem_of_mem_tail h)
  · exact .inr (List.mem_of_mem_take h)
  · exact .inr (List.mem_of_mem_tail h)

/-- R183: with entries left in the queue the pipe was full, so removal and refill leave it full. -/
theorem Bounds.takeHead {p : Params} {b : Blk} (h : Bounds p b) : Bounds p b.takeHead := by
  obtain ⟨hpipe, hqueue⟩ := takeHead_lengths b
  have hfull : b.queue.length ≠ 0 → b.pipe.length = Config.pipeCap := by
    simpa only [ne_eq, List.length_eq_zero_iff] using h.refilled
  have hpos : 0 < Config.pipeCap := by decide
  have hpipeLe := h.pipeLe
  constructor
  case pipeLe => omega
  case queueLe => have := h.queueLe; omega
  case refilled =>
    intro hq
    rw [ne_eq, ← List.length_eq_zero_iff] at hq
    omega
  case accepted => exact fun e he => h.accepted e (mem_held_of_mem_takeHead_held he)
  case spProjLe => simpa using h.spProjLe
  case spPvLe => simpa using h.spPvLe
  case spTexLe => simpa using h.spTexLe
  case pendingLe => simpa using h.pendingLe
  case cfgLegal => exact h.cfgLegal

/-- The pointer a mode selects is within its capacity (R44, R212). -/
theorem Bounds.sp_le_cap {p : Params} {b : Blk} (h : Bounds p b) : b.sp ≤ b.mode.cap := by
  unfold Blk.sp
  cases b.mode
  · exact h.spProjLe
  · exact h.spPvLe
  · exact h.spPvLe
  · exact h.spTexLe

/-- A change of the matrix engine keeps `Bounds` when the pointers stay within their capacities. -/
theorem Bounds.engineOnly {p : Params} {b b' : Blk} (h : Bounds p b) (he : EngineOnly b b')
    (hsp : b'.spProj ≤ Config.projCap ∧ b'.spPv ≤ Config.pvCap ∧ b'.spTex ≤ Config.texCap) : Bounds p b' := by
  obtain ⟨h1, h2, h3, h4, -, -, -, h8, h9⟩ := h
  obtain ⟨hproj, hpv, htex⟩ := hsp
  have hpipe : b'.pipe = b.pipe := by rw [he.eq]
  have hqueue : b'.queue = b.queue := by rw [he.eq]
  have hpend : b'.pending = b.pending := by rw [he.eq]
  constructor <;> simpa only [Blk.held, hpipe, hqueue, hpend]

/-- Load and multiply move no pointer (R214-R216). -/
theorem Bounds.mapTargets {p : Params} {b : Blk} (h : Bounds p b) (f : Matrix → Matrix) :
    Bounds p (b.mapTargets f) := by
  obtain ⟨hproj, hpv, htex⟩ := mapTargets_sps f b
  exact h.engineOnly (mapTargets_engineOnly f b) ⟨hproj ▸ h.spProjLe, hpv ▸ h.spPvLe, htex ▸ h.spTexLe⟩

/-- A save moves no pointer (R218, R220). -/
theorem Bounds.saveAt {p : Params} {b : Blk} (h : Bounds p b) (i : Nat) : Bounds p (b.saveAt i) := by
  obtain ⟨hproj, hpv, htex, -⟩ := saveAt_sps i b
  exact h.engineOnly (saveAt_engineOnly i b) ⟨hproj ▸ h.spProjLe, hpv ▸ h.spPvLe, htex ▸ h.spTexLe⟩

/-- A restore moves no pointer (R219, R221). -/
theorem Bounds.restoreFrom {p : Params} {b : Blk} (h : Bounds p b) (i : Nat) : Bounds p (b.restoreFrom i) := by
  obtain ⟨hproj, hpv, htex⟩ := restoreFrom_sps i b
  exact h.engineOnly (restoreFrom_engineOnly i b) ⟨hproj ▸ h.spProjLe, hpv ▸ h.spPvLe, htex ▸ h.spTexLe⟩

/-- A pointer written within its capacity (R44). -/
theorem Bounds.setSp {p : Params} {b : Blk} (h : Bounds p b) {n : Nat} (hn : n ≤ b.mode.cap) :
    Bounds p (b.setSp n) :=
  h.engineOnly (setSp_engineOnly n b) (setSp_sps hn h.spProjLe h.spPvLe h.spTexLe)

/-- R44: below capacity a Push raises the pointer by 1; at capacity it only sets OVERFLOW (R218). -/
theorem Bounds.applyPush {p : Params} {b : Blk} (h : Bounds p b) : Bounds p (Machine.applyPush b) := by
  unfold Machine.applyPush
  split
  case isTrue => exact h.frame
  case isFalse hne =>
    obtain ⟨-, -, -, hmode⟩ := saveAt_sps b.sp b
    exact (h.saveAt b.sp).setSp (by have := h.sp_le_cap; rw [hmode]; omega)

/-- R44: a Pop lowers the pointer, also where it raises a fault, or puts it at 0 (R219). -/
theorem Bounds.applyPop {p : Params} {b : Blk} (h : Bounds p b) (n : Nat) :
    Bounds p (Machine.applyPop n b).blk := by
  have hle : b.sp - n ≤ b.mode.cap := le_trans (Nat.sub_le _ _) h.sp_le_cap
  have hU : Bounds p b.setUnderflow := h.frame
  unfold Machine.applyPop
  split
  case isTrue => exact hU.setSp (Nat.zero_le _)
  case isFalse =>
    dsimp only
    split
    case isTrue => exact h.setSp hle
    case isFalse => exact (h.setSp hle).restoreFrom _

/-- Every command keeps `Bounds`, the Pop that raises a fault too (R44, R213-R221). -/
theorem Bounds.applyCommand {p : Params} {b : Blk} (h : Bounds p b) (o : MulOrder) (c : Command) :
    Bounds p (Machine.applyCommand o c b).blk := by
  cases c with
  | setMode m => exact h.frame
  | push => exact h.applyPush
  | pop n => exact h.applyPop n
  | storeToStack slot =>
    simp only [Machine.applyCommand, applyStoreToStack, Applied.blk]
    split
    · exact h.frame
    · exact h.saveAt slot
  | restoreFromStack slot =>
    simp only [Machine.applyCommand, applyRestoreFromStack, Applied.blk]
    split
    · exact h.frame
    · exact h.restoreFrom slot
  | loadIdentity => exact h.mapTargets fun _ => identity
  | loadMatrix O => exact h.mapTargets fun _ => O
  | multiply O => exact h.mapTargets _
  | forwardOpaque e => exact h

/-- Right after a reset the buffers and the deliveries are empty and every pointer is 0 (R54). -/
theorem bounds_initial {p : Params} (h : paramsLegal p = true) (draw : Nat) : Bounds p (Blk.initial draw) where
  pipeLe := Nat.zero_le _
  queueLe := Nat.zero_le _
  refilled hq := absurd rfl hq
  accepted _ he := nomatch he
  spProjLe := Nat.zero_le _
  spPvLe := Nat.zero_le _
  spTexLe := Nat.zero_le _
  pendingLe _ hn := nomatch hn
  cfgLegal := h

/-- The bodyless delay of the reset state is at least 1, and R7's default `none` is a legal offset (log 3). -/
theorem paramsLegal_reset : paramsLegal Config.params = true := by
  simp [paramsLegal, texOffsetLegal, Config.params]

/-! ### The invariant along an operation -/

/-- A bus read changes at most the diagnostics and the recorded fault (R150). -/
theorem Inv.busRead {s : State} (h : Inv s) (pg : Page) (addr : Addr) : Inv (s.busRead pg addr) := by
  rcases busRead_cases pg addr s with ⟨v, e⟩ | e | e <;> rw [e] <;> exact h.frame

/-- Of the registers, only GXSTAT holds a field the invariant speaks of, and its write recomputes (R159). -/
theorem Inv.busWrite {s : State} (h : Inv s) (pg : Page) (addr : Addr) (v : Byte) :
    Inv (s.busWrite pg addr v) := by
  rcases busWrite_cases pg addr v s with ⟨r, k, -, e⟩ | e | e <;> rw [e]
  · cases r with
    | gxstat =>
      obtain ⟨u, o, m, eg⟩ := writeGxstat_frame s.cfg.gxIrqDelay k v s.blk
      exact .of_recompute ((inv_iff_bounds s).1 h).1.frame rfl eg
    | _ => exact h.frame
  · exact h.frame
  · exact h.frame

/-- Enqueue stores an accepted entry where there is room, and recomputes (R180, R181). -/
theorem Inv.enqueue {s : State} (h : Inv s) (e : Entry) : Inv (s.enqueue e) := by
  have hb : Bounds s.cfg s.blk := ((inv_iff_bounds s).1 h).1
  rcases enqueue_cases e s with ⟨r, -, eq⟩ | ⟨he, hroom, eq⟩ | ⟨he, hfull, hroom, eq⟩ | ⟨-, -, -, eq⟩ <;> rw [eq]
  · exact h.frame
  · exact .of_recompute (hb.appendPipe he hroom) rfl rfl
  · exact .of_recompute (hb.appendQueue he hfull hroom) rfl rfl
  · exact h.frame

/-- An execution step ends with Recompute whether its command raised a fault or not (R265, log 6). -/
theorem Inv.finishExec {s : State} {a : Applied} (h : Bounds s.cfg a.blk) (em : List Entry) :
    Inv (s.finishExec em a) := by
  rcases finishExec_cases em a s with ⟨b, rfl, e⟩ | ⟨f, b, rfl, e⟩ <;> rw [e]
  · exact .of_recompute h rfl rfl
  · have hi : Inv (s.ok (b.recompute s.cfg.gxIrqDelay) .done) := .of_recompute h rfl rfl
    exact hi.frame

/-- TICK keeps the deliveries with more than one tick left, each with one tick fewer (R267). -/
theorem Inv.tick {s : State} (h : Inv s) : Inv (s.ok (s.blk.tick s.cfg.gxIrqSource) .done) where
  pipeLe := by simpa using h.pipeLe
  queueLe := by simpa using h.queueLe
  refilled := by simpa using h.refilled
  accepted := by simpa [Blk.held] using h.accepted
  spProjLe := by simpa using h.spProjLe
  spPvLe := by simpa using h.spPvLe
  spTexLe := by simpa using h.spTexLe
  pendingLe n hn := by
    simp only [State.ok_blk, Blk.tick_pending, List.mem_map, List.mem_filter, decide_eq_true_eq] at hn
    obtain ⟨m, ⟨hm, hlt⟩, rfl⟩ := hn
    have hle : m ≤ s.cfg.gxIrqDelay := (h.pendingLe m hm).2
    exact ⟨by omega, by simp only [State.ok_cfg]; omega⟩
  prevCond := by
    rw [State.ok_blk, Blk.tick_prevCond, h.prevCond]
    exact (cond_congr (by simp) (by simp) (by simp)).symm
  cfgLegal := h.cfgLegal

/-- A state whose block was just reset, whatever its bookkeeping (R54, R350): IRQ_MODE is 0, so `cond` is false. -/
theorem Inv.of_initial {t : State} {n : Nat} {f : Option ModelFault} {r : Bool} {d : List DiagEvent}
    (hp : paramsLegal t.cfg = true)
    (hblk : t.blk = { Blk.initial n with fault := f, refused := r, diag := d }) : Inv t := by
  rw [inv_iff_bounds, hblk]
  exact ⟨(bounds_initial hp n).frame, rfl⟩

/-- Every operation keeps the invariant. -/
theorem Inv.exec {s t : State} {i : Instr} (h : Inv s) (hexec : Machine.exec i s = .next t) : Inv t := by
  rcases exec_next_cases hexec with ⟨pg, addr, -, rfl⟩ | ⟨pg, addr, v, -, rfl⟩ | ⟨e, -, rfl⟩ |
    ⟨-, e, rest, c, -, -, -, rfl⟩ | ⟨-, rfl⟩ | ⟨src, -, ⟨-, rfl⟩ | ⟨-, rfl⟩⟩ | ⟨v, -, rfl⟩ | ⟨-, rfl⟩ | ⟨-, rfl⟩ |
    ⟨code, -, rfl⟩
  · exact h.busRead pg addr
  · exact h.busWrite pg addr v
  · exact h.enqueue e
  · exact .finishExec (((inv_iff_bounds s).1 h).1.takeHead.applyCommand _ c) _
  · exact h.tick
  · exact h.frame
  · exact h.frame
  · exact h.frame
  · exact h.frame
  · exact .of_initial h.cfgLegal rfl
  · exact h.frame

/-- Settles O60: the step performs one operation, on a state that differs in `inputs` alone. -/
theorem stepKeepsTheInvariant : Obligations.StepKeepsTheInvariant := by
  intro s t h hstep
  obtain ⟨op, rest, i, -, -, hexec⟩ := step_next_cases hstep
  exact h.frame.exec hexec

/-- Settles O59. -/
theorem resetStateMeetsTheInvariant : Obligations.ResetStateMeetsTheInvariant :=
  .of_initial (n := 0) (f := none) (r := false) (d := []) paramsLegal_reset rfl

/-! ### Who writes Request -/

/-- Of the registers, a write of Request alone changes Request (R295). -/
theorem writeReg_IF {r : Register} (hr : r ≠ .request) (d k : Nat) (v : Byte) (b : Blk) :
    (writeReg d r k v b).IF = b.IF := by
  cases r with
  | request => exact absurd rfl hr
  | gxstat =>
    obtain ⟨u, o, m, e⟩ := writeGxstat_frame d k v b
    rw [writeReg, e, Blk.recompute_IF]
  | _ => rfl

/-- No bus read changes Request. -/
theorem busRead_IF (pg : Page) (addr : Addr) (s : State) : (s.busRead pg addr).blk.IF = s.blk.IF := by
  rcases busRead_cases pg addr s with ⟨v, e⟩ | e | e <;> rw [e] <;> rfl

/-- A bus write changes Request only at R82's offsets, as WriteIF does (R295). -/
theorem busWrite_IF_cases (pg : Page) (addr : Addr) (v : Byte) (s : State) :
    (s.busWrite pg addr v).blk.IF = s.blk.IF ∨
    ∃ k, pg = .irq ∧ (Addr.offset addr).toNat = 0x214 + k ∧ k < 4 ∧
      (s.busWrite pg addr v).blk.IF = (writeIF k v s.blk).IF := by
  rcases busWrite_cases pg addr v s with ⟨r, k, hr, e⟩ | e | e <;> rw [e]
  · by_cases hreq : r = .request
    · subst hreq
      obtain ⟨hpg, hoff, hk⟩ := regAt_eq_request hr
      exact .inr ⟨k, hpg, hoff, hk, rfl⟩
    · exact .inl (writeReg_IF hreq _ k v s.blk)
  · exact .inl rfl
  · exact .inl rfl

/-- No Enqueue changes Request (R353). -/
theorem enqueue_IF (e : Entry) (s : State) : (s.enqueue e).blk.IF = s.blk.IF := by
  rcases enqueue_cases e s with ⟨r, -, eq⟩ | ⟨-, -, eq⟩ | ⟨-, -, -, eq⟩ | ⟨-, -, -, eq⟩ <;> rw [eq] <;> simp

/-- The end of an execution step does not change Request (R353). -/
theorem finishExec_IF (em : List Entry) (a : Applied) (s : State) : (s.finishExec em a).blk.IF = a.blk.IF := by
  rcases finishExec_cases em a s with ⟨b, rfl, e⟩ | ⟨f, b, rfl, e⟩ <;> rw [e] <;> simp [Applied.blk]

/-- All an operation can do to Request. -/
theorem exec_IF_cases {s t : State} {i : Instr} (h : exec i s = .next t) :
    t.blk.IF = s.blk.IF ∨
    (∃ src, i = .raise src ∧ t.blk.IF = s.blk.IF ||| ((1 : BitVec 14) <<< src.toNat)) ∨
    (i = .tick ∧ t.blk.IF = s.blk.IF ||| ((1 : BitVec 14) <<< s.cfg.gxIrqSource.val)) ∨
    (∃ sel off v k, busAccess i = some (.irq, addrOf sel off, some v) ∧ 0x214 ≤ off.toNat ∧ off.toNat ≤ 0x217 ∧
      t.blk.IF = (writeIF k v s.blk).IF) ∨
    (i = .reset ∧ t.blk.IF = 0) := by
  rcases exec_next_cases h with ⟨pg, addr, -, rfl⟩ | ⟨pg, addr, v, hi, rfl⟩ | ⟨e, -, rfl⟩ |
    ⟨-, e, rest, c, -, -, -, rfl⟩ | ⟨hi, rfl⟩ | ⟨src, hi, ⟨-, rfl⟩ | ⟨-, rfl⟩⟩ | ⟨v, -, rfl⟩ | ⟨-, rfl⟩ | ⟨hi, rfl⟩ |
    ⟨code, -, rfl⟩
  · exact .inl (busRead_IF pg addr s)
  · rcases busWrite_IF_cases pg addr v s with e | ⟨k, rfl, hoff, hk, e⟩
    · exact .inl e
    · refine .inr (.inr (.inr (.inl ⟨addr.selector, addr.offset, v, k, ?_, by omega, by omega, e⟩)))
      rw [addrOf_selector_offset]
      exact hi
  · exact .inl (enqueue_IF e s)
  · exact .inl (by simp [finishExec_IF])
  · by_cases hdue : s.blk.pending.any (· ≤ 1) = true
    · exact .inr (.inr (.inl ⟨hi, (Blk.tick_IF s.blk s.cfg.gxIrqSource).trans (if_pos hdue)⟩))
    · exact .inl (by simp [hdue])
  · exact .inl rfl
  · exact .inr (.inl ⟨src, hi, rfl⟩)
  · exact .inl rfl
  · exact .inl rfl
  · exact .inr (.inr (.inr (.inr ⟨hi, rfl⟩)))
  · exact .inl rfl

/-- Setting bit `n` turns on no other bit (R268, R297). -/
theorem eq_of_or_bit_set {x y : BitVec 14} {n j : Nat} (hy : y = x ||| ((1 : BitVec 14) <<< n))
    (hoff : x.getLsbD j = false) (hon : y.getLsbD j = true) : n = j := by
  have hj : j < 14 := BitVec.lt_of_getLsbD hon
  rw [hy, or_bit_getLsbD _ _ _ hj, hoff, Bool.false_or, decide_eq_true_eq] at hon
  exact hon.symm

/-- Setting a bit turns none off (R268, R297). -/
theorem getLsbD_of_or_bit {x y : BitVec 14} {n j : Nat} (hy : y = x ||| ((1 : BitVec 14) <<< n))
    (hon : x.getLsbD j = true) : y.getLsbD j = true := by
  rw [hy, BitVec.getLsbD_or, hon, Bool.true_or]

/-- WriteIF only acknowledges: it turns on no bit (R295). -/
theorem writeIF_getLsbD_false {b : Blk} {j : Nat} (hoff : b.IF.getLsbD j = false) (k : Nat) (v : Byte) :
    (writeIF k v b).IF.getLsbD j = false := by
  rw [writeIF, BitVec.getLsbD_and, hoff, Bool.false_and]

/-- Settles O31, from all an operation can do to Request. -/
theorem requestBitsHaveTheirOnlyWriters : Obligations.RequestBitsHaveTheirOnlyWriters := by
  intro s t i j h
  rcases exec_IF_cases h with e | ⟨src, hi, e⟩ | ⟨hi, e⟩ | ⟨sel, off, v, k, hi, hlo, hhi, e⟩ | ⟨hi, e⟩ <;>
    refine ⟨fun h0 h1 => ?_, fun h1 h0 => ?_⟩
  · simp [e, h0] at h1
  · simp [e, h1] at h0
  · exact .inl ⟨src, hi, eq_of_or_bit_set e h0 h1⟩
  · simp [getLsbD_of_or_bit e h1] at h0
  · exact .inr ⟨hi, eq_of_or_bit_set e h0 h1⟩
  · simp [getLsbD_of_or_bit e h1] at h0
  · simp [e, writeIF_getLsbD_false h0] at h1
  · exact .inl ⟨sel, off, v, hi, hlo, hhi⟩
  · simp [e] at h1
  · exact .inr hi

/-! ### Who writes the sticky flags -/

/-- Of the registers, a write of GXSTAT's byte 1 alone changes a sticky flag, by R159's write-1-to-clear. -/
theorem writeReg_flags_cases (d : Nat) (r : Register) (k : Nat) (v : Byte) (b : Blk) :
    ((writeReg d r k v b).overflow = b.overflow ∧ (writeReg d r k v b).underflow = b.underflow) ∨
    (r = .gxstat ∧ k = 1 ∧ (writeReg d r k v b).overflow = (b.clearFlags v).overflow ∧
      (writeReg d r k v b).underflow = (b.clearFlags v).underflow) := by
  cases r with
  | gxstat =>
    rw [writeReg, writeGxstat, Blk.recompute_overflow, Blk.recompute_underflow]
    split
    case isTrue h1 => exact .inr ⟨rfl, h1, rfl, rfl⟩
    case isFalse => split <;> exact .inl ⟨rfl, rfl⟩
  | _ => exact .inl ⟨rfl, rfl⟩

/-- No bus read changes a sticky flag. -/
theorem busRead_flags (pg : Page) (addr : Addr) (s : State) :
    (s.busRead pg addr).blk.overflow = s.blk.overflow ∧ (s.busRead pg addr).blk.underflow = s.blk.underflow := by
  rcases busRead_cases pg addr s with ⟨v, e⟩ | e | e <;> rw [e] <;> exact ⟨rfl, rfl⟩

/-- A bus write changes a sticky flag only at GXSTAT's byte 1 (R81, R159). -/
theorem busWrite_flags_cases (pg : Page) (addr : Addr) (v : Byte) (s : State) :
    ((s.busWrite pg addr v).blk.overflow = s.blk.overflow ∧
      (s.busWrite pg addr v).blk.underflow = s.blk.underflow) ∨
    (pg = .gx ∧ Addr.offset addr = 0x601 ∧ (s.busWrite pg addr v).blk.overflow = (s.blk.clearFlags v).overflow ∧
      (s.busWrite pg addr v).blk.underflow = (s.blk.clearFlags v).underflow) := by
  rcases busWrite_cases pg addr v s with ⟨r, k, hr, e⟩ | e | e <;> rw [e]
  · rcases writeReg_flags_cases s.cfg.gxIrqDelay r k v s.blk with hf | ⟨rfl, rfl, ho, hu⟩
    · exact .inl hf
    · obtain ⟨hpg, hoff, -⟩ := regAt_eq_gxstat hr
      exact .inr ⟨hpg, BitVec.eq_of_toNat_eq hoff, ho, hu⟩
  · exact .inl ⟨rfl, rfl⟩
  · exact .inl ⟨rfl, rfl⟩

/-- No Enqueue changes a sticky flag. -/
theorem enqueue_flags (e : Entry) (s : State) :
    (s.enqueue e).blk.overflow = s.blk.overflow ∧ (s.enqueue e).blk.underflow = s.blk.underflow := by
  rcases enqueue_cases e s with ⟨r, -, eq⟩ | ⟨-, -, eq⟩ | ⟨-, -, -, eq⟩ | ⟨-, -, -, eq⟩ <;> rw [eq] <;> simp

/-- The end of an execution step leaves the flags as the command left them. -/
theorem finishExec_flags (em : List Entry) (a : Applied) (s : State) :
    (s.finishExec em a).blk.overflow = a.blk.overflow ∧ (s.finishExec em a).blk.underflow = a.blk.underflow := by
  rcases finishExec_cases em a s with ⟨b, rfl, e⟩ | ⟨f, b, rfl, e⟩ <;> rw [e] <;> simp [Applied.blk]

/-- All an operation can do to the sticky flags. -/
theorem exec_flags_cases {s t : State} {i : Instr} (h : exec i s = .next t) :
    (t.blk.overflow = s.blk.overflow ∧ t.blk.underflow = s.blk.underflow) ∨
    (i = .exec ∧ (s.blk.overflow = true → t.blk.overflow = true) ∧
      (s.blk.underflow = true → t.blk.underflow = true)) ∨
    (∃ sel v, busAccess i = some (.gx, addrOf sel 0x601, some v) ∧
      t.blk.overflow = (s.blk.clearFlags v).overflow ∧ t.blk.underflow = (s.blk.clearFlags v).underflow) ∨
    (i = .reset ∧ t.blk.overflow = false ∧ t.blk.underflow = false) := by
  rcases exec_next_cases h with ⟨pg, addr, -, rfl⟩ | ⟨pg, addr, v, hi, rfl⟩ | ⟨e, -, rfl⟩ |
    ⟨hi, e, rest, c, -, -, -, rfl⟩ | ⟨-, rfl⟩ | ⟨src, -, ⟨-, rfl⟩ | ⟨-, rfl⟩⟩ | ⟨v, -, rfl⟩ | ⟨-, rfl⟩ | ⟨hi, rfl⟩ |
    ⟨code, -, rfl⟩
  · exact .inl (busRead_flags pg addr s)
  · rcases busWrite_flags_cases pg addr v s with hf | ⟨rfl, hoff, ho, hu⟩
    · exact .inl hf
    · refine .inr (.inr (.inl ⟨addr.selector, v, ?_, ho, hu⟩))
      rw [← hoff, addrOf_selector_offset]
      exact hi
  · exact .inl (enqueue_flags e s)
  · have hf := applyCommand_flags s.cfg.mulOrder c s.blk.takeHead
    rw [Blk.takeHead_overflow, Blk.takeHead_underflow] at hf
    simp only [finishExec_flags]
    exact .inr (.inl ⟨hi, hf⟩)
  · exact .inl (by simp)
  · exact .inl ⟨rfl, rfl⟩
  · exact .inl ⟨rfl, rfl⟩
  · exact .inl ⟨rfl, rfl⟩
  · exact .inl ⟨rfl, rfl⟩
  · exact .inr (.inr (.inr ⟨hi, rfl, rfl⟩))
  · exact .inl ⟨rfl, rfl⟩

/-- Settles O52, from all an operation can do to the sticky flags. -/
theorem stickyFlagsHaveTheirOnlyWriters : Obligations.StickyFlagsHaveTheirOnlyWriters := by
  intro s t i h
  rcases exec_flags_cases h with ⟨ho, hu⟩ | ⟨hi, ho, hu⟩ | ⟨sel, v, hi, ho, hu⟩ | ⟨hi, ho, hu⟩
  · rw [ho, hu]
    simp +contextual
  · exact ⟨fun _ _ => hi, fun _ _ => hi, fun h1 h0 => by simp [ho h1] at h0, fun h1 h0 => by simp [hu h1] at h0⟩
  · rw [Blk.clearFlags_overflow] at ho
    rw [Blk.clearFlags_underflow] at hu
    refine ⟨fun h0 h1 => ?_, fun h0 h1 => ?_, fun h1 h0 => .inr ⟨sel, 0x601, v, hi, rfl, ?_⟩,
      fun h1 h0 => .inr ⟨sel, 0x601, v, hi, rfl, ?_⟩⟩
    · simp [ho, h0] at h1
    · simp [hu, h0] at h1
    · simpa [ho, h1] using h0
    · simpa [hu, h1] using h0
  · exact ⟨fun _ h1 => by simp [ho] at h1, fun _ h1 => by simp [hu] at h1, fun _ _ => .inl hi, fun _ _ => .inl hi⟩

/-! ### Bookkeeping marks -/

/-- What an operation from `s` to `t` may do to the bookkeeping: `fault`, `refused` and `overrun` are never cleared,
`diag` grows, and the marks agree with what the operation answered (R10, R51, log 14). -/
structure MarksKept (s t : State) : Prop where
  faultKept : ∀ f, s.blk.fault = some f → t.blk.fault = some f
  refusedKept : s.blk.refused = true → t.blk.refused = true
  diagGrows : s.blk.diag <+: t.blk.diag
  raisedRecorded : ∀ f, t.result = .raised f → s.blk.fault = none → t.blk.fault = some f
  refusalMarked : ∀ r, t.result = .refused r → t.blk.refused = true
  overrunIff : t.overrun = true ↔ s.overrun = true ∨ t.result = .full

/-- Whether a result asks for no mark: no fault, no refusal and no `Full`. -/
def Result.quiet : Result → Bool
  | .raised _ | .refused _ | .full => false
  | .done | .byte _ | .accepted | .flag _ => true

/-- An operation with a quiet result that leaves the marks as they are. -/
theorem MarksKept.of_quiet {s t : State} (hq : t.result.quiet = true) (hfault : t.blk.fault = s.blk.fault := by rfl)
    (hrefused : t.blk.refused = s.blk.refused := by rfl)
    (hdiag : s.blk.diag <+: t.blk.diag := by exact List.prefix_rfl)
    (hoverrun : t.overrun = s.overrun := by rfl) : MarksKept s t where
  faultKept f h := hfault.trans h
  refusedKept h := hrefused.trans h
  diagGrows := hdiag
  raisedRecorded f h := by simp [h, Result.quiet] at hq
  refusalMarked r h := by simp [h, Result.quiet] at hq
  overrunIff := by
    have hfull : t.result ≠ .full := fun h => by simp [h, Result.quiet] at hq
    simp [hoverrun, hfull]

/-- `raise` after a change that leaves the marks as they are: only a first fault is recorded (R51). -/
theorem MarksKept.raiseFault {s u : State} (f : ModelFault) (hfault : u.blk.fault = s.blk.fault := by rfl)
    (hrefused : u.blk.refused = s.blk.refused := by rfl) (hdiag : u.blk.diag = s.blk.diag := by rfl)
    (hoverrun : u.overrun = s.overrun := by rfl) : MarksKept s (u.raiseFault f) where
  faultKept g h := by simp [hfault, h]
  refusedKept h := hrefused.trans h
  diagGrows := by simp [hdiag]
  raisedRecorded g hg h := by
    simp only [State.raiseFault_result, Result.raised.injEq] at hg
    simp [hfault, h, hg]
  refusalMarked r h := by simp at h
  overrunIff := by simp [hoverrun]

/-- `refuse` sets `refused` and no other mark (R323). -/
theorem marksKept_refuse (s : State) (r : RefuseKind) : MarksKept s (s.refuse r) where
  faultKept _ h := h
  refusedKept _ := rfl
  diagGrows := List.prefix_rfl
  raisedRecorded f h := by simp at h
  refusalMarked _ _ := rfl
  overrunIff := by simp

/-- `Full` sets the mark `overrun` and no other (R181, log 14). -/
theorem marksKept_answerFull (s : State) : MarksKept s s.answerFull where
  faultKept _ h := h
  refusedKept h := h
  diagGrows := List.prefix_rfl
  raisedRecorded f h := by simp at h
  refusalMarked r h := by simp at h
  overrunIff := by simp

/-- A bus read: quiet, or one more diagnostic, or a WiringFault (R150). -/
theorem marksKept_busRead (pg : Page) (addr : Addr) (s : State) : MarksKept s (s.busRead pg addr) := by
  rcases busRead_cases pg addr s with ⟨v, e⟩ | e | e <;> rw [e]
  · exact .of_quiet rfl
  · exact .of_quiet rfl rfl rfl (List.prefix_append _ _)
  · exact .raiseFault _

/-- No register holds a mark. -/
theorem writeReg_marks (d : Nat) (r : Register) (k : Nat) (v : Byte) (b : Blk) :
    (writeReg d r k v b).fault = b.fault ∧ (writeReg d r k v b).refused = b.refused ∧
    (writeReg d r k v b).diag = b.diag := by
  cases r with
  | gxstat =>
    obtain ⟨u, o, m, e⟩ := writeGxstat_frame d k v b
    simp [writeReg, e]
  | _ => exact ⟨rfl, rfl, rfl⟩

/-- A bus write: quiet, or one more diagnostic, or a WiringFault (R151). -/
theorem marksKept_busWrite (pg : Page) (addr : Addr) (v : Byte) (s : State) :
    MarksKept s (s.busWrite pg addr v) := by
  rcases busWrite_cases pg addr v s with ⟨r, k, -, e⟩ | e | e <;> rw [e]
  · obtain ⟨hfault, hrefused, hdiag⟩ := writeReg_marks s.cfg.gxIrqDelay r k v s.blk
    exact .of_quiet rfl hfault hrefused (by simp [hdiag])
  · exact .of_quiet rfl rfl rfl (List.prefix_append _ _)
  · exact .raiseFault _

/-- An Enqueue: refused, accepted, or answered `Full` (R180-R182). -/
theorem marksKept_enqueue (e : Entry) (s : State) : MarksKept s (s.enqueue e) := by
  rcases enqueue_cases e s with ⟨r, -, eq⟩ | ⟨-, -, eq⟩ | ⟨-, -, -, eq⟩ | ⟨-, -, -, eq⟩ <;> rw [eq]
  · exact marksKept_refuse s r
  · exact .of_quiet rfl (by simp) (by simp) (by simp)
  · exact .of_quiet rfl (by simp) (by simp) (by simp)
  · exact marksKept_answerFull s

/-- The end of an execution step whose command touched no mark: quiet, or a StackIndexFault (R183, R219). -/
theorem marksKept_finishExec {s : State} {a : Applied} (em : List Entry) (hfault : a.blk.fault = s.blk.fault)
    (hrefused : a.blk.refused = s.blk.refused) (hdiag : a.blk.diag = s.blk.diag) :
    MarksKept s (s.finishExec em a) := by
  rcases finishExec_cases em a s with ⟨b, rfl, e⟩ | ⟨f, b, rfl, e⟩ <;> rw [e]
  · rw [Applied.blk] at hfault hrefused hdiag
    exact .of_quiet rfl (by simp [hfault]) (by simp [hrefused]) (by simp [hdiag])
  · rw [Applied.blk] at hfault hrefused hdiag
    exact .raiseFault (u := s.ok (b.recompute s.cfg.gxIrqDelay) .done) f (by simp [hfault]) (by simp [hrefused])
      (by simp [hdiag])

/-- Every operation keeps the marks. -/
theorem marksKept_exec {s t : State} {i : Instr} (h : exec i s = .next t) : MarksKept s t := by
  rcases exec_next_cases h with ⟨pg, addr, -, rfl⟩ | ⟨pg, addr, v, -, rfl⟩ | ⟨e, -, rfl⟩ |
    ⟨-, e, rest, c, -, -, -, rfl⟩ | ⟨-, rfl⟩ | ⟨src, -, ⟨-, rfl⟩ | ⟨-, rfl⟩⟩ | ⟨v, -, rfl⟩ | ⟨-, rfl⟩ | ⟨-, rfl⟩ |
    ⟨code, -, rfl⟩
  · exact marksKept_busRead pg addr s
  · exact marksKept_busWrite pg addr v s
  · exact marksKept_enqueue e s
  · exact marksKept_finishExec _ (by simp) (by simp) (by simp)
  · exact .of_quiet rfl (by simp) (by simp) (by simp)
  · exact marksKept_refuse s _
  · exact .of_quiet rfl
  · exact .of_quiet rfl
  · exact .of_quiet rfl
  · exact .of_quiet rfl
  · exact marksKept_refuse s _

/-- Settles O56. -/
theorem faultAndRefusalMarksAreSticky : Obligations.FaultAndRefusalMarksAreSticky := by
  intro s t i h
  obtain ⟨hfault, hrefused, hdiag, hraised, hrefusal, hoverrun⟩ := marksKept_exec h
  exact ⟨hfault, hrefused, hdiag, hraised, hrefusal, hoverrun⟩

/-! ### Diagnostics are output only

Each operation commutes with replacing the diagnostic log, up to what the log then holds. -/

/-- `b` with another diagnostic log. -/
def Blk.withDiag (d : List DiagEvent) (b : Blk) : Blk := { b with diag := d }

/-- `s` with another diagnostic log. -/
def State.withDiag (d : List DiagEvent) (s : State) : State := { s with blk := s.blk.withDiag d }

/-- An outcome's block and its state get the same log. -/
theorem ok_withDiag (r : Result) (d : List DiagEvent) (b : Blk) (s : State) :
    (s.withDiag d).ok (b.withDiag d) r = (s.ok b r).withDiag d := rfl

/-- Recompute reads no diagnostic. -/
theorem recompute_withDiag (n : Nat) (d : List DiagEvent) (b : Blk) :
    (b.withDiag d).recompute n = (b.recompute n).withDiag d := by
  rw [recompute_eq, recompute_eq]
  rfl

/-- A register's byte does not depend on the diagnostics. -/
theorem readReg_withDiag (r : Register) (k : Nat) (d : List DiagEvent) (b : Blk) :
    readReg r k (b.withDiag d) = readReg r k b := by
  cases r <;> rfl

/-- A register's write reads and writes no diagnostic. -/
theorem writeReg_withDiag (n : Nat) (r : Register) (k : Nat) (v : Byte) (d : List DiagEvent) (b : Blk) :
    writeReg n r k v (b.withDiag d) = (writeReg n r k v b).withDiag d := by
  cases r with
  | gxstat =>
    rw [writeReg, writeGxstat, writeReg, writeGxstat, ← recompute_withDiag]
    congr 1
    split
    · rfl
    · split <;> rfl
  | _ => rfl

/-- A bus read reads no diagnostic; at an unmapped offset it adds one (R87). -/
theorem busRead_withDiag (pg : Page) (addr : Addr) (d : List DiagEvent) (s : State) :
    ∃ d', (s.withDiag d).busRead pg addr = (s.busRead pg addr).withDiag d' := by
  have hcfg : (s.withDiag d).cfg = s.cfg := rfl
  unfold State.busRead
  rw [hcfg]
  split
  · split
    case h_1 r k _ => exact ⟨d, congrArg (fun v => (s.withDiag d).ok _ (.byte v)) (readReg_withDiag r k d s.blk)⟩
    case h_2 => exact ⟨_, rfl⟩
  · exact ⟨d, rfl⟩

/-- A bus write reads no diagnostic; at an unmapped offset it adds one (R87). -/
theorem busWrite_withDiag (pg : Page) (addr : Addr) (v : Byte) (d : List DiagEvent) (s : State) :
    ∃ d', (s.withDiag d).busWrite pg addr v = (s.busWrite pg addr v).withDiag d' := by
  have hcfg : (s.withDiag d).cfg = s.cfg := rfl
  unfold State.busWrite
  rw [hcfg]
  split
  · split
    case h_1 r k _ => exact ⟨d, by rw [← ok_withDiag, ← writeReg_withDiag]; rfl⟩
    case h_2 => exact ⟨_, rfl⟩
  · exact ⟨d, rfl⟩

/-- Enqueue reads no diagnostic and adds none. -/
theorem enqueue_withDiag (e : Entry) (d : List DiagEvent) (s : State) :
    (s.withDiag d).enqueue e = (s.enqueue e).withDiag d := by
  have hpipe : (s.withDiag d).blk.pipe = s.blk.pipe := rfl
  have hqueue : (s.withDiag d).blk.queue = s.blk.queue := rfl
  unfold State.enqueue
  rw [hpipe, hqueue]
  split
  · rfl
  · split
    · rw [← ok_withDiag, ← recompute_withDiag]; rfl
    · split
      · rw [← ok_withDiag, ← recompute_withDiag]; rfl
      · rfl

/-- Removal and refill read no diagnostic. -/
theorem takeHead_withDiag (d : List DiagEvent) (b : Blk) : (b.withDiag d).takeHead = b.takeHead.withDiag d := by
  rw [takeHead_eq, takeHead_eq]
  rfl

/-- The engine of `b'` in the rest of `b`, when `b'` differs from `b` in the engine only. -/
theorem EngineOnly.withEngine_withDiag {b b' : Blk} (h : EngineOnly b b') (d : List DiagEvent) :
    withEngine (b.withDiag d) b' = b'.withDiag d := by
  conv_rhs => rw [h.eq]
  rfl

/-- A command reads and writes the engine only, so no diagnostic (R213-R221). -/
theorem applyCommand_withDiag (o : MulOrder) (c : Command) (d : List DiagEvent) (b : Blk) :
    applyCommand o c (b.withDiag d) = (applyCommand o c b).mapBlk (Blk.withDiag d) := by
  have he : EngineOnly b (applyCommand o c b).blk := applyCommand_engineOnly o c b
  have hc : applyCommand o c (b.withDiag d) = (applyCommand o c b).mapBlk (withEngine (b.withDiag d)) :=
    applyCommand_withEngine (w := b.withDiag d) o c b
  rw [hc]
  cases ha : applyCommand o c b <;> rw [ha] at he
  case ok b' => exact congrArg Applied.ok (he.withEngine_withDiag d)
  case raised f b' => exact congrArg (Applied.raised f) (he.withEngine_withDiag d)

/-- The end of an execution step reads no diagnostic and adds none. -/
theorem finishExec_withDiag (em : List Entry) (a : Applied) (d : List DiagEvent) (s : State) :
    (s.withDiag d).finishExec em (a.mapBlk (Blk.withDiag d)) = (s.finishExec em a).withDiag d := by
  cases a with
  | ok b => simp only [State.finishExec, Applied.mapBlk, recompute_withDiag]; rfl
  | raised f b => simp only [State.finishExec, Applied.mapBlk, recompute_withDiag]; rfl

/-- A tick reads no diagnostic. -/
theorem tick_withDiag (src : Fin 14) (d : List DiagEvent) (b : Blk) :
    (b.withDiag d).tick src = (b.tick src).withDiag d := by
  have hpend : (b.withDiag d).pending = b.pending := rfl
  unfold Blk.tick
  rw [hpend]
  split <;> rfl

/-- An operation from a state with another diagnostic log goes to the same next state but for that log. -/
theorem exec_withDiag {s t : State} {i : Instr} (h : exec i s = .next t) (d : List DiagEvent) :
    ∃ d', exec i (s.withDiag d) = .next (t.withDiag d') := by
  rcases exec_next_cases h with ⟨pg, addr, hi, rfl⟩ | ⟨pg, addr, v, hi, rfl⟩ | ⟨e, hi, rfl⟩ |
    ⟨rfl, e, rest, c, hf, hp, hc, rfl⟩ | ⟨rfl, rfl⟩ | ⟨src, rfl, ht⟩ | ⟨v, rfl, rfl⟩ | ⟨rfl, rfl⟩ | ⟨rfl, rfl⟩ |
    ⟨code, rfl, rfl⟩
  · obtain ⟨d', e⟩ := busRead_withDiag pg addr d s
    exact ⟨d', by rw [exec_busAccess hi, ← e]⟩
  · obtain ⟨d', e⟩ := busWrite_withDiag pg addr v d s
    exact ⟨d', by rw [exec_busAccess hi, ← e]⟩
  · exact ⟨d, by rw [exec_cmdEntry hi, enqueue_withDiag]⟩
  · refine ⟨d, (exec_exec (s := s.withDiag d) hf hp hc).trans ?_⟩
    rw [← finishExec_withDiag, ← applyCommand_withDiag, ← takeHead_withDiag]
    rfl
  · exact ⟨d, by rw [← ok_withDiag, ← tick_withDiag]; rfl⟩
  · refine ⟨d, ?_⟩
    simp only [exec, execRaise]
    rcases ht with ⟨hgt, rfl⟩ | ⟨hle, rfl⟩
    · rw [if_pos hgt]; rfl
    · rw [if_neg hle.not_gt]; rfl
  · exact ⟨d, rfl⟩
  · exact ⟨d, rfl⟩
  · exact ⟨d, rfl⟩
  · exact ⟨d, rfl⟩

/-- Settles O57. -/
theorem diagnosticsAreNeverRead : Obligations.DiagnosticsAreNeverRead := by
  intro s t i d h
  obtain ⟨d', hd⟩ := exec_withDiag h d
  exact ⟨t.withDiag d', hd, rfl⟩

end Sys2Proof.Machine
end

section
/-! SUPPORT. The proofs of the statements about the step and the memory-mapped accesses (20_memory.md): what a step
performs (O1, O2), accesses on the wrong page (O15), unmapped offsets (O16), the frame of a bus read (O17), and the held
entries (O39). -/

namespace Sys2Proof.Machine

/-! ### The step, by its input -/

/-- R89: the step performs what the first input decodes to, taken out of the order. -/
theorem step_of_decode {s : State} {op : RawOp} {rest : List RawOp} {i : Instr} (hin : s.inputs = op :: rest)
    (hdec : decode s.cfg.texOffset op = .ok i) : step s = exec i { s with inputs := rest } := by
  simp only [step, hin, hdec]

/-- Log 10: the step refuses by name what the decoder refuses. -/
theorem step_of_decode_error {s : State} {op : RawOp} {rest : List RawOp} {e : DecodeError}
    (hin : s.inputs = op :: rest) (hdec : decode s.cfg.texOffset op = .error e) :
    step s = .refused (.undecodable e) := by
  simp only [step, hin, hdec]

/-- Log 1: with no input the machine is stuck. -/
theorem step_of_no_input {s : State} (hin : s.inputs = []) : step s = .fault .noOperation := by
  simp only [step, hin]

/-- Log 10: the decoder refuses an access word that disagrees with its address on the offset. -/
theorem decode_bus_mismatch (tex : Option Offset) {word : BusWord} {addr : Addr} (data : Byte)
    (h : BusWord.offset word ≠ Addr.offset addr) :
    decode tex (.bus word addr data) = .error .busOffsetMismatch :=
  if_neg h

/-- Settles O1. -/
theorem stepPerformsTheDecodedOperation : Obligations.StepPerformsTheDecodedOperation := by
  refine ⟨fun s op rest i hin hdec => step_of_decode hin hdec, fun s nbits w i hdec => ?_⟩
  have hin : (s.withFetchWord nbits w).inputs = rawOfTable nbits w :: s.inputs := rfl
  exact step_of_decode hin hdec

/-- Settles O2: what decodes, EXEC apart, is performed by `exec`, which has a next state. -/
theorem stepStopsWithoutADecodedOperation : Obligations.StepStopsWithoutADecodedOperation := by
  refine ⟨fun s hin => step_of_no_input hin, fun s word addr data rest hin hne => ?_,
    fun s op rest i hin hdec hi => ?_⟩
  · exact step_of_decode_error hin (decode_bus_mismatch s.cfg.texOffset data hne)
  · rw [step_of_decode hin hdec]
    exact exec_ne_exec hi _

/-! ### Accesses on the wrong page and on the right one -/

/-- `raise` written out (R51): the fault is the result, and is recorded if it is the first. -/
theorem raiseFault_eq (f : ModelFault) (s : State) :
    s.raiseFault f = { s with
      result := .raised f
      blk := { s.blk with fault := if s.blk.fault = none then some f else s.blk.fault } } := by
  rw [State.raiseFault, recordFault_eq]
  rfl

/-- R86: every BUS row raises WiringFault on the wrong page. -/
theorem exec_wrongPage {i : Instr} {pg : Page} {addr : Addr} {v : Option Byte} {s : State}
    (hi : busAccess i = some (pg, addr, v)) (hsel : Addr.selector addr ≠ s.cfg.selector pg) :
    exec i s = .next (s.raiseFault (.wiring addr)) := by
  rw [exec_busAccess hi]
  cases v with
  | none => exact congrArg _ (busRead_wrongPage hsel)
  | some v => exact congrArg _ (busWrite_wrongPage hsel)

/-- R150: a read on the right page returns a byte and changes at most the diagnostics. -/
theorem busRead_rightPage {s : State} {pg : Page} {addr : Addr} (hsel : Addr.selector addr = s.cfg.selector pg) :
    ∃ v d, s.busRead pg addr = { s with result := .byte v, blk := { s.blk with diag := s.blk.diag ++ d } } := by
  rw [← addrOf_selector_offset addr]
  rcases hr : regAt s.cfg.texOffset pg (Addr.offset addr) with _ | ⟨r, k⟩
  · exact ⟨0, [⟨.unmappedRead, _⟩], busRead_unmapped hsel hr⟩
  · exact ⟨readReg r k s.blk, [], by rw [busRead_mapped hsel hr, List.append_nil]; rfl⟩

/-- Settles O15. -/
theorem wrongPageRaisesWiringFault : Obligations.WrongPageRaisesWiringFault := by
  intro s i pg addr v hi hsel
  rw [exec_wrongPage hi hsel, raiseFault_eq]

/-- Settles O17, by the selector: on the right page no fault, on the wrong one no diagnostic. -/
theorem busReadsAreEffectFree : Obligations.BusReadsAreEffectFree := by
  intro s i pg addr hi
  by_cases hsel : Addr.selector addr = s.cfg.selector pg
  · obtain ⟨v, d, hread⟩ := busRead_rightPage hsel
    exact ⟨.byte v, d, s.blk.fault, by rw [exec_busAccess hi, hread], fun _ => rfl⟩
  · refine ⟨.raised (.wiring addr), [], if s.blk.fault = none then some (.wiring addr) else s.blk.fault, ?_,
      fun h => absurd h hsel⟩
    rw [exec_wrongPage hi hsel, raiseFault_eq, List.append_nil]

/-! ### Unmapped offsets (R87) -/

/-- R81: an offset the GX page does not list holds no register. -/
theorem regAt_of_gxUnmapped {tex : Option Offset} {off : Offset} (h : GxUnmapped tex off) :
    regAt tex .gx off = none := by
  obtain ⟨hcolor, hdepth, hstat, htex⟩ := h
  rcases gxRegAt_cases tex off with ⟨h1, h2, -⟩ | ⟨h1, h2, -⟩ | ⟨t, ht, -, h1, h2, -⟩ | ⟨h1, h2, -, -⟩ | ⟨-, -, -, e⟩
  · omega
  · omega
  · exact absurd ⟨h1, h2⟩ (htex t ht)
  · omega
  · exact e

/-- R82: an offset the IRQ page does not list holds no register. -/
theorem regAt_of_irqUnmapped (tex : Option Offset) {off : Offset} (h : IrqUnmapped off) :
    regAt tex .irq off = none := by
  obtain ⟨hmaster, henable, hrequest⟩ := h
  rcases irqRegAt_cases off with ⟨h1, h2, -⟩ | ⟨h1, h2, -⟩ | ⟨h1, h2, -⟩ | ⟨-, -, e⟩
  · omega
  · omega
  · omega
  · exact e

/-- R81: no legal `TEXPARAMS_OFFSET` reaches the two offsets past ClearDepth. -/
theorem gxUnmapped_past_clearDepth {tex : Option Offset} {off : Offset} (h : texOffsetLegal tex = true)
    (hoff : 0x356 ≤ off.toNat ∧ off.toNat ≤ 0x357) : GxUnmapped tex off := by
  refine ⟨by omega, by omega, by omega, fun t ht => ?_⟩
  rw [ht, texOffsetLegal_some] at h
  omega

/-- The access word of an offset is the page and direction bits plus the offset, as R119's rows are written. -/
theorem busWordOf_zero_add (pg : Page) (wr : Bool) (off : Offset) :
    busWordOf pg wr 0 + off.setWidth 14 = busWordOf pg wr off := by
  apply BitVec.eq_of_toNat_eq
  have hoff := off.isLt
  rw [BitVec.toNat_add, BitVec.toNat_setWidth, toNat_busWordOf, toNat_busWordOf]
  cases pg <;> cases wr <;> simp <;> omega

/-- The BUS row of a read at an unmapped offset (R119). -/
def unmappedReadRow : Page → PageSel → Offset → Instr
  | .gx, sel, off => .rd8GxUnmapped sel off
  | .irq, sel, off => .rd8IrqUnmapped sel off

/-- The BUS row of a write at an unmapped offset (R119). -/
def unmappedWriteRow : Page → PageSel → Offset → Byte → Instr
  | .gx, sel, off, v => .wr8GxUnmapped sel off v
  | .irq, sel, off, v => .wr8IrqUnmapped sel off v

section
variable {s : State} {pg : Page} {off : Offset} (sel : PageSel) (v : Byte)
  (hr : regAt s.cfg.texOffset pg off = none)
include hr

/-- R119: where nothing is mapped, the access words decode to the page's unmapped rows. -/
theorem decode_unmapped {rd wr : BusWord} (ht : pg = .gx → texOffsetLegal s.cfg.texOffset = true)
    (hrd : rd = busWordOf pg false off) (hwr : wr = busWordOf pg true off) :
    decode s.cfg.texOffset (.bus rd (addrOf sel off) v) = .ok (unmappedReadRow pg sel off) ∧
    decode s.cfg.texOffset (.bus wr (addrOf sel off) v) = .ok (unmappedWriteRow pg sel off v) := by
  rw [hrd, hwr, decode_busWordOf ht, decode_busWordOf ht]
  cases pg <;> simp only [busInstr, hr, unmappedReadRow, unmappedWriteRow, and_self]

/-- R87: the effects of the unmapped rows on the right page. -/
theorem exec_unmapped (hsel : sel = s.cfg.selector pg) :
    exec (unmappedReadRow pg sel off) s =
      .next { s with
        result := .byte 0x00
        blk := { s.blk with diag := s.blk.diag ++ [⟨.unmappedRead, addrOf sel off⟩] } } ∧
    exec (unmappedWriteRow pg sel off v) s =
      .next { s with
        result := .done
        blk := { s.blk with diag := s.blk.diag ++ [⟨.unmappedWrite, addrOf sel off⟩] } } := by
  have hread : busAccess (unmappedReadRow pg sel off) = some (pg, addrOf sel off, none) := by cases pg <;> rfl
  have hwrite : busAccess (unmappedWriteRow pg sel off v) = some (pg, addrOf sel off, some v) := by cases pg <;> rfl
  rw [exec_busAccess hread, exec_busAccess hwrite]
  exact ⟨congrArg _ (busRead_unmapped hsel hr), congrArg _ (busWrite_unmapped hsel hr)⟩

end

/-- Settles O16: the register map has nothing there, so both pages are one argument. -/
theorem unmappedOffsetsReadZeroAndIgnoreWrites : Obligations.UnmappedOffsetsReadZeroAndIgnoreWrites := by
  refine ⟨fun s sel off v ht hsel h => ?_, fun s sel off v hsel h => ?_, fun tex ht => ?_⟩
  · have hr := regAt_of_gxUnmapped h
    have hrd : off.setWidth 14 = busWordOf .gx false off :=
      (BitVec.zero_add _).symm.trans (busWordOf_zero_add .gx false off)
    obtain ⟨hdr, hdw⟩ := decode_unmapped sel v hr (fun _ => ht) hrd (busWordOf_zero_add .gx true off)
    exact ⟨hdr, hdw, exec_unmapped sel v hr hsel⟩
  · have hr := regAt_of_irqUnmapped s.cfg.texOffset h
    obtain ⟨hdr, hdw⟩ := decode_unmapped sel v hr nofun (busWordOf_zero_add .irq false off)
      (busWordOf_zero_add .irq true off)
    exact ⟨hdr, hdw, exec_unmapped sel v hr hsel⟩
  · exact ⟨gxUnmapped_past_clearDepth ht (by decide), gxUnmapped_past_clearDepth ht (by decide)⟩

/-! ### Held entries -/

/-- Recompute moves no entry (R264). -/
@[simp] theorem recompute_held (d : Nat) (b : Blk) : (b.recompute d).held = b.held := by simp [Blk.held]

/-- A command moves no entry (R213-R221). -/
@[simp] theorem applyCommand_held (o : MulOrder) (c : Command) (b : Blk) :
    (applyCommand o c b).blk.held = b.held := by
  simp [Blk.held]

/-- A tick moves no entry (R267). -/
@[simp] theorem tick_held (src : Fin 14) (b : Blk) : (b.tick src).held = b.held := by simp [Blk.held]

/-- No register holds an entry. -/
theorem writeReg_held (d : Nat) (r : Register) (k : Nat) (v : Byte) (b : Blk) :
    (writeReg d r k v b).held = b.held := by
  cases r with
  | gxstat =>
    obtain ⟨u, o, m, e⟩ := writeGxstat_frame d k v b
    rw [writeReg, e, recompute_held]
    rfl
  | _ => rfl

/-- A bus read moves no entry (R150). -/
theorem busRead_held (pg : Page) (addr : Addr) (s : State) : (s.busRead pg addr).blk.held = s.blk.held := by
  rcases busRead_cases pg addr s with ⟨v, e⟩ | e | e <;> rw [e] <;> rfl

/-- A bus write moves no entry (R151). -/
theorem busWrite_held (pg : Page) (addr : Addr) (v : Byte) (s : State) :
    (s.busWrite pg addr v).blk.held = s.blk.held := by
  rcases busWrite_cases pg addr v s with ⟨r, k, -, e⟩ | e | e <;> rw [e]
  · exact writeReg_held _ r k v s.blk
  · rfl
  · rfl

/-- The end of an execution step moves no entry (R183). -/
theorem finishExec_held (em : List Entry) (a : Applied) (s : State) :
    (s.finishExec em a).blk.held = a.blk.held := by
  rcases finishExec_cases em a s with ⟨b, rfl, e⟩ | ⟨f, b, rfl, e⟩ <;> rw [e]
  · exact recompute_held _ b
  · exact recompute_held _ b

/-- An Enqueue puts its entry behind the held ones, if anywhere: the pipe has room only while the queue is empty
(R38, R180). -/
theorem Inv.held_prefix_enqueue {s : State} (h : Inv s) (e : Entry) : s.blk.held <+: (s.enqueue e).blk.held := by
  rcases enqueue_cases e s with ⟨r, -, eq⟩ | ⟨-, hroom, eq⟩ | ⟨-, -, -, eq⟩ | ⟨-, -, -, eq⟩ <;> rw [eq]
  · exact List.prefix_rfl
  · have hqueue : s.blk.queue = [] := not_not.1 fun hq => hroom.ne (h.refilled hq)
    rw [State.ok_blk, recompute_held, Blk.held, Blk.held, hqueue, List.append_nil, List.append_nil]
    exact List.prefix_append _ _
  · rw [State.ok_blk, recompute_held, Blk.held, Blk.held, ← List.append_assoc]
    exact List.prefix_append _ _
  · exact List.prefix_rfl

/-- R37, R91: an operation other than EXEC and RESET keeps the held entries, in their order, in front. -/
theorem held_prefix_exec {s t : State} {i : Instr} (h : Inv s) (hexec : exec i s = .next t) (hne : i ≠ .exec)
    (hreset : i ≠ .reset) : s.blk.held <+: t.blk.held := by
  rcases exec_next_cases hexec with ⟨pg, addr, -, rfl⟩ | ⟨pg, addr, v, -, rfl⟩ | ⟨e, -, rfl⟩ | ⟨hi, -⟩ | ⟨-, rfl⟩ |
    ⟨src, -, ⟨-, rfl⟩ | ⟨-, rfl⟩⟩ | ⟨v, -, rfl⟩ | ⟨-, rfl⟩ | ⟨hi, -⟩ | ⟨code, -, rfl⟩
  · rw [busRead_held]
  · rw [busWrite_held]
  · exact h.held_prefix_enqueue e
  · exact absurd hi hne
  · rw [State.ok_blk, tick_held]
  · exact List.prefix_rfl
  · exact List.prefix_rfl
  · exact List.prefix_rfl
  · exact List.prefix_rfl
  · exact absurd hi hreset
  · exact List.prefix_rfl

/-- R183: EXEC removes the oldest held entry, whatever its command does. -/
theorem exec_exec_held {s t : State} (hexec : exec .exec s = .next t) : t.blk.held = s.blk.held.tail := by
  obtain ⟨e, rest, c, -, hpipe, -, rfl⟩ := exec_exec_next hexec
  rw [finishExec_held, applyCommand_held, takeHead_held hpipe, List.tail_cons]

/-- Settles O39. -/
theorem heldEntriesAreSnapshots : Obligations.HeldEntriesAreSnapshots := by
  intro s t i h hexec hreset
  refine ⟨fun hne => held_prefix_exec h hexec hne hreset, ?_⟩
  rintro rfl
  exact exec_exec_held hexec

end Sys2Proof.Machine
end

section
/-! SUPPORT. The proofs of the statements about the encoding (30_encoding.md): words of the spec (O3), decoding and
encoding against each other (O4, O5), and the BUS rows against the dispatch by offset (O6). -/

namespace Sys2Proof.Machine

/-! ### CMD operations (R112) -/

/-- A CMD row is encoded as its entry. -/
theorem encode_of_cmdEntry {i : Instr} {e : Entry} (h : cmdEntry i = some e) : encode i = .cmd e := by
  cases i <;> simp only [cmdEntry, Option.some.injEq, reduceCtorEq] at h <;> subst h <;> rfl

/-- The tag of an entry selects its own row; only the Opaque row leaves the tag open. -/
theorem decodeCmd_of_cmdEntry {tex : Option Offset} {i : Instr} {e : Entry} (hi : i.inRow tex = true)
    (h : cmdEntry i = some e) : decodeCmd e = i := by
  cases i <;> simp only [cmdEntry, Option.some.injEq, reduceCtorEq] at h <;> subst h
  case opaqueCmd tag ps => exact accepts_decode (.opaqueCmd tag ps hi)
  all_goals rfl

/-- The round trip of a CMD operation. -/
theorem decode_encode_of_cmdEntry {tex : Option Offset} {i : Instr} {e : Entry} (hi : i.inRow tex = true)
    (h : cmdEntry i = some e) : decode tex (encode i) = .ok i := by
  rw [encode_of_cmdEntry h, decode, decodeCmd_of_cmdEntry hi h]

/-! ### BUS operations (R118, R119) -/

/-- Under a legal `TEXPARAMS_OFFSET` an access word that agrees with its address decodes to the operation at its
page, direction and offset. -/
theorem decode_bus {tex : Option Offset} (ht : texOffsetLegal tex = true) {word : BusWord} {addr : Addr}
    (h : BusWord.offset word = Addr.offset addr) (data : Byte) :
    decode tex (.bus word addr data) =
      .ok (busInstr tex (if word.getLsbD 13 then .irq else .gx) (word.getLsbD 12) (Addr.selector addr)
        (BusWord.offset word) data) := by
  have hdec := decode_busWordOf (pg := if word.getLsbD 13 then .irq else .gx) (fun _ => ht) (word.getLsbD 12)
    (Addr.selector addr) (BusWord.offset word) data
  rwa [busWordOf_offset, h, addrOf_selector_offset, ← h] at hdec

/-- The round trip of a BUS operation: it is the operation at its own offset, and a read is encoded with data 0. -/
theorem decode_encode_of_busAccess {tex : Option Offset} (ht : texOffsetLegal tex = true) {i : Instr} {pg : Page}
    {addr : Addr} {v : Option Byte} (hi : i.inRow tex = true) (h : busAccess i = some (pg, addr, v)) :
    decode tex (encode i) = .ok i := by
  obtain ⟨wr, sel, off, v, rfl, hread⟩ := eq_busInstr ht hi h
  obtain ⟨-, henc, -⟩ := busInstr_spec tex pg wr sel off v
  have hdata : (if wr then v else 0) = v := by
    cases wr with
    | false => exact (hread rfl).symm
    | true => rfl
  rw [henc, hdata, decode_busWordOf fun _ => ht]

/-- What the decoder reads from a BUS word lies in its row and encodes back, but for the data of a read. -/
theorem decode_bus_spec {tex : Option Offset} (ht : texOffsetLegal tex = true) {word : BusWord} {addr : Addr}
    {data : Byte} {i : Instr} (h : decode tex (.bus word addr data) = .ok i) :
    i.inRow tex = true ∧ encode i = canonical (.bus word addr data) := by
  by_cases hoff : BusWord.offset word = Addr.offset addr
  · rw [decode_bus ht hoff, Except.ok.injEq] at h
    subst h
    obtain ⟨-, henc, hrow⟩ := busInstr_spec tex (if word.getLsbD 13 then .irq else .gx) (word.getLsbD 12)
      (Addr.selector addr) (BusWord.offset word) data
    refine ⟨hrow, ?_⟩
    rw [henc, busWordOf_offset, hoff, addrOf_selector_offset, canonical]
  · rw [decode_bus_mismatch tex data hoff] at h
    cases h

/-- Performing the operation at an offset is the dispatch by that offset (R150, R151). -/
theorem exec_busInstr (tex : Option Offset) (pg : Page) (wr : Bool) (sel : PageSel) (off : Offset) (v : Byte)
    (s : State) :
    exec (busInstr tex pg wr sel off v) s =
      .next (if wr then s.busWrite pg (addrOf sel off) v else s.busRead pg (addrOf sel off)) := by
  obtain ⟨hacc, -, -⟩ := busInstr_spec tex pg wr sel off v
  rw [exec_busAccess hacc]
  cases wr <;> rfl

/-! ### PORT operations (R120, R121) -/

/-- A code that R120 gives no operation decodes to the refused port. -/
theorem decodePort_of_not_isPortCode {code : Byte} (h : (!isPortCode code) = true) (operand : Byte) :
    decodePort code operand = .refusedPort code := by
  obtain ⟨h1, h2, h3, h4, h5, h6⟩ := (isPortCode_iff code).1 h
  simp only [decodePort, h1, h2, h3, h4, h5, h6, if_false]

/-- The round trip of an operation that is neither a BUS nor a CMD one. -/
theorem decode_encode_of_port {tex : Option Offset} {i : Instr} (hi : i.inRow tex = true)
    (hbus : busAccess i = none) (hcmd : cmdEntry i = none) : decode tex (encode i) = .ok i := by
  cases i <;> simp only [busAccess, cmdEntry, reduceCtorEq] at hbus hcmd
  case refusedPort code => exact congrArg _ (decodePort_of_not_isPortCode hi 0)
  all_goals rfl

/-! ### The statements -/

/-- Settles O4, by the three formats of R110. -/
theorem decodeOfEncodeIsIdentity : Obligations.DecodeOfEncodeIsIdentity := by
  intro tex ht i hi
  rcases hbus : busAccess i with _ | ⟨pg, addr, v⟩
  · rcases hcmd : cmdEntry i with _ | e
    · exact decode_encode_of_port hi hbus hcmd
    · exact decode_encode_of_cmdEntry hi hcmd
  · exact decode_encode_of_busAccess ht hi hbus

/-- Settles O5, by the three formats of R110. -/
theorem encodeOfDecodeIsCanonical : Obligations.EncodeOfDecodeIsCanonical := by
  refine fun tex ht => ⟨fun r i h => ?_, fun r hagree => ?_⟩
  · cases r with
    | cmd e => cases h; exact decodeCmd_spec tex e
    | bus word addr data => exact decode_bus_spec ht h
    | port code operand => cases h; exact decodePort_spec tex code operand
  · cases r with
    | cmd e => exact ⟨decodeCmd e, rfl⟩
    | bus word addr data => exact ⟨_, decode_bus ht (hagree word addr data rfl) data⟩
    | port code operand => exact ⟨decodePort code operand, rfl⟩

/-- Settles O6: the row found is the operation at the word's own page, direction and offset. -/
theorem busRowsAgreeWithBusDispatch : Obligations.BusRowsAgreeWithBusDispatch := by
  intro s word sel data ht
  have hdec := decode_bus ht (offset_addrOf sel (BusWord.offset word)).symm data
  rw [selector_addrOf] at hdec
  exact ⟨_, hdec, exec_busInstr _ _ _ sel _ data s⟩

/-- Settles O3, each word by running the decoder. -/
theorem specWordsDecode : Obligations.SpecWordsDecode :=
  ⟨rfl, rfl, rfl, rfl, rfl, rfl, rfl, rfl, rfl, rfl, rfl, rfl⟩

end Sys2Proof.Machine
end

section
/-! SUPPORT. The proofs of the statements about the register bank (40_register_bank.md): the bytes of ClearColor (O7,
O8), ClearDepth (O9) and TextureParams (O10), their read-back (O11), and GXSTAT (O13, O14). -/

namespace Sys2Proof.Machine

/-! ### The words of a register's bytes (R119) -/

/-- R118: an access word's own address agrees with it on the offset, so only the row that holds the word counts. -/
theorem busEncodes_of_decodeBusWord {tex : Option Offset} {word : BusWord} {i : PageSel → Byte → Instr}
    (h : ∀ sel data, decodeBusWord tex word sel data = i sel data) : BusEncodes tex word i := by
  intro sel data
  have hoff : BusWord.offset word = Addr.offset (addrOf sel (BusWord.offset word)) := (offset_addrOf _ _).symm
  rw [← h]
  exact (if_pos hoff).trans (by rw [selector_addrOf])

/-- Under a legal `TEXPARAMS_OFFSET` the word of a page, direction and offset encodes the operation there. -/
theorem busEncodes_of_busInstr {tex : Option Offset} (ht : texOffsetLegal tex = true) {pg : Page} {wr : Bool}
    {off : Offset} {word : BusWord} {i : PageSel → Byte → Instr} (hword : word = busWordOf pg wr off)
    (hi : ∀ sel v, busInstr tex pg wr sel off v = i sel v) : BusEncodes tex word i :=
  busEncodes_of_decodeBusWord fun sel v => by rw [hword, decodeBusWord_eq (fun _ => ht), hi]

/-- R119: the words of the bytes of ClearColor, whose rows come before TextureParams' own. -/
theorem busEncodes_clearColor (tex : Option Offset) (k : BitVec 2) :
    BusEncodes tex (0x0350 + k.setWidth 14) (fun sel _ => .rd8ClearColor sel k) ∧
    BusEncodes tex (0x1350 + k.setWidth 14) (fun sel v => .wr8ClearColor sel k v) := by
  rcases bitVec2_cases k with rfl | rfl | rfl | rfl <;>
    exact ⟨busEncodes_of_decodeBusWord fun _ _ => rfl, busEncodes_of_decodeBusWord fun _ _ => rfl⟩

/-- R119: the words of the bytes of ClearDepth, whose rows come before TextureParams' own. -/
theorem busEncodes_clearDepth (tex : Option Offset) (k : BitVec 1) :
    BusEncodes tex (0x0354 + k.setWidth 14) (fun sel _ => .rd8ClearDepth sel k) ∧
    BusEncodes tex (0x1354 + k.setWidth 14) (fun sel v => .wr8ClearDepth sel k v) := by
  rcases bitVec1_cases k with rfl | rfl <;>
    exact ⟨busEncodes_of_decodeBusWord fun _ _ => rfl, busEncodes_of_decodeBusWord fun _ _ => rfl⟩

/-- R119: the words of the bytes of GXSTAT, which a legal TextureParams does not take. -/
theorem busEncodes_gxstat {tex : Option Offset} (ht : texOffsetLegal tex = true) (k : BitVec 2) :
    BusEncodes tex (0x0600 + k.setWidth 14) (fun sel _ => .rd8Gxstat sel k) ∧
    BusEncodes tex (0x1600 + k.setWidth 14) (fun sel v => .wr8Gxstat sel k v) := by
  obtain ⟨hrd, hwr⟩ : 0x0600 + k.setWidth 14 = busWordOf .gx false (offsetOf Config.gxstatOffset k) ∧
      0x1600 + k.setWidth 14 = busWordOf .gx true (offsetOf Config.gxstatOffset k) := by
    revert k; decide
  exact ⟨busEncodes_of_busInstr ht hrd fun sel v => by simp [busInstr, ht],
    busEncodes_of_busInstr ht hwr fun sel v => by simp [busInstr, ht]⟩

/-- R119: the word of a read at an offset of the GX page that holds no register. -/
theorem busEncodes_gxUnmapped {tex : Option Offset} (ht : texOffsetLegal tex = true) {off : Offset}
    (h : GxUnmapped tex off) : BusEncodes tex (busWordOf .gx false off) fun sel _ => .rd8GxUnmapped sel off :=
  busEncodes_of_busInstr ht rfl fun sel v => by simp only [busInstr, regAt_of_gxUnmapped h]

/-- R119: the access words of byte `k` of TextureParams, where it is placed. -/
theorem decode_texParams {t : Offset} (ht : texOffsetLegal (some t) = true) (sel : PageSel) (k : BitVec 2) (v : Byte) :
    decode (some t) (.bus ((t + k.setWidth 12).setWidth 14) (addrOf sel (t + k.setWidth 12)) v) =
      .ok (.rd8TextureParams sel (t + k.setWidth 12)) ∧
    decode (some t) (.bus (0x1000 + (t + k.setWidth 12).setWidth 14) (addrOf sel (t + k.setWidth 12)) v) =
      .ok (.wr8TextureParams sel (t + k.setWidth 12) v) := by
  have hrd : (t + k.setWidth 12).setWidth 14 = busWordOf .gx false (t + k.setWidth 12) :=
    (BitVec.zero_add _).symm.trans (busWordOf_zero_add .gx false _)
  have hwr : 0x1000 + (t + k.setWidth 12).setWidth 14 = busWordOf .gx true (t + k.setWidth 12) :=
    busWordOf_zero_add .gx true _
  rw [hwr, hrd, decode_busWordOf fun _ => ht, decode_busWordOf fun _ => ht]
  simp only [busInstr, regAt_texParams ht, and_self]

/-- An instruction outside its own row of the table is decoded from nothing (R119). -/
theorem decode_ne_of_not_inRow {tex : Option Offset} (ht : texOffsetLegal tex = true) {i : Instr}
    (hi : i.inRow tex = false) (r : RawOp) : decode tex r ≠ .ok i := by
  intro hdec
  obtain ⟨hrow, -⟩ := (encodeOfDecodeIsCanonical tex ht).1 r i hdec
  exact Bool.false_ne_true (hi.symm.trans hrow)

/-! ### Accesses of a register's byte, performed (R150, R151) -/

section
variable {s : State} {i : Instr} {pg : Page} {sel : PageSel} {off : Offset} {r : Register} {k : Nat}
  (hsel : sel = s.cfg.selector pg) (hr : regAt s.cfg.texOffset pg off = some (r, k))
include hsel hr

/-- A read on the right page returns the register's byte and changes nothing of `S`. -/
theorem exec_read_mapped (hi : busAccess i = some (pg, addrOf sel off, none)) :
    exec i s = .next { s with result := .byte (readReg r k s.blk) } := by
  rw [exec_busAccess hi]
  exact congrArg _ (busRead_mapped hsel hr)

/-- A write on the right page completes with the register's byte written. -/
theorem exec_write_mapped {v : Byte} (hi : busAccess i = some (pg, addrOf sel off, some v)) :
    exec i s = .next { s with result := .done, blk := writeReg s.cfg.gxIrqDelay r k v s.blk } := by
  rw [exec_busAccess hi]
  exact congrArg _ (busWrite_mapped hsel hr)

end

/-! ### TextureParams (O10) -/

/-- Settles O10; with no `TEXPARAMS_OFFSET` no offset lies in the rows of TextureParams. -/
theorem textureParamsBytesReadAndWrite : Obligations.TextureParamsBytesReadAndWrite := by
  refine ⟨fun s t sel k v hcfg ht hsel => ?_, fun r sel off v => ?_⟩
  · obtain ⟨hdr, hdw⟩ := decode_texParams ht sel k v
    have hr : regAt s.cfg.texOffset .gx (t + k.setWidth 12) = some (.texParams, k.toNat) :=
      hcfg ▸ regAt_texParams ht k
    exact ⟨hdr, hdw, exec_read_mapped hsel hr rfl, exec_write_mapped hsel hr rfl⟩
  · exact ⟨decode_ne_of_not_inRow rfl rfl r, decode_ne_of_not_inRow rfl rfl r⟩

/-! ### The address space after a write of a byte (O11) -/

/-- A byte written to a register that only stores it is the byte read at its offset, and no other byte of the two
pages changes: each byte of a register has one offset. -/
theorem busByte_writeReg {tex : Option Offset} {off : Offset} {r : Register} {k : Nat}
    (hr : regAt tex .gx off = some (r, k)) (hne : r ≠ .gxstat) (d : Nat) (v : Byte) (b : Blk) (pg : Page)
    (off' : Offset) :
    busByte tex pg off' (writeReg d r k v b) = if pg = .gx ∧ off' = off then v else busByte tex pg off' b := by
  by_cases hsame : pg = .gx ∧ off' = off
  · obtain ⟨rfl, rfl⟩ := hsame
    simp only [busByte, hr, readReg_writeReg (regAt_gx_plain hr hne), and_self, if_true]
  · rw [if_neg hsame]
    rcases hr' : regAt tex pg off' with _ | ⟨r', k'⟩
    · simp only [busByte, hr']
    · have hother : ¬ (r' = r ∧ k' = k) := by
        rintro ⟨rfl, rfl⟩
        exact hsame (regAt_inj hr' hr)
      simp only [busByte, hr', readReg_writeReg (regAt_gx_plain hr hne), if_neg hother]

/-- Settles O11. -/
theorem plainByteWriteIsReadBackAlone : Obligations.PlainByteWriteIsReadBackAlone := by
  intro s i sel off v r k _ hi hsel hr hne
  exact ⟨_, exec_write_mapped hsel hr hi, rfl, busByte_writeReg hr hne s.cfg.gxIrqDelay v s.blk⟩

/-! ### GXSTAT (O13, O14) -/

/-- WriteGXSTAT byte by byte: bytes 0 and 2 hold nothing writable, byte 1 the two flags, byte 3 IRQ_MODE (R159). -/
theorem writeGxstat_eq (d : Nat) (k : BitVec 2) (v : Byte) (b : Blk) :
    writeGxstat d k.toNat v b = recomputed d { b with
      underflow := if k = 1 ∧ v.getLsbD 6 = true then false else b.underflow
      overflow := if k = 1 ∧ v.getLsbD 7 = true then false else b.overflow
      irqMode := if k = 3 then v.extractLsb' 6 2 else b.irqMode } := by
  have hclear : ∀ flag bit : Bool, (flag && !bit) = if bit = true then false else flag := by decide
  rw [writeGxstat, recompute_eq]
  rcases bitVec2_cases k with rfl | rfl | rfl | rfl
  · rfl
  · simp only [Blk.clearFlags, hclear, true_and]
    rfl
  · rfl
  · rfl

/-- Settles O14. -/
theorem writeGxstatClearsFlagsAndSetsMode : Obligations.WriteGxstatClearsFlagsAndSetsMode := by
  intro s sel k v ht hsel
  refine ⟨(busEncodes_gxstat ht k).2, ?_⟩
  rw [exec_write_mapped hsel (regAt_gxstat ht k) rfl, writeReg, writeGxstat_eq]

/-- Settles O13. -/
theorem readGxstatReturnsItsByte : Obligations.ReadGxstatReturnsItsByte := by
  intro s sel k ht hsel
  exact ⟨(busEncodes_gxstat ht k).1, exec_read_mapped hsel (regAt_gxstat ht k) rfl⟩

/-! ### ClearColor and ClearDepth (O7, O8, O9) -/

/-- Settles O7. -/
theorem readClearColorReturnsItsByte : Obligations.ReadClearColorReturnsItsByte :=
  ⟨fun tex k => (busEncodes_clearColor tex k).1,
    fun s _ k hsel => exec_read_mapped hsel (regAt_clearColor s.cfg.texOffset k) rfl⟩

/-- Settles O8. -/
theorem writeClearColorReplacesItsByte : Obligations.WriteClearColorReplacesItsByte :=
  ⟨fun tex k => (busEncodes_clearColor tex k).2,
    fun s _ k _ hsel => exec_write_mapped hsel (regAt_clearColor s.cfg.texOffset k) rfl⟩

/-- Settles O9: the two offsets past the register are unmapped under every legal `TEXPARAMS_OFFSET`. -/
theorem clearDepthBytesReadAndWrite : Obligations.ClearDepthBytesReadAndWrite := by
  refine ⟨busEncodes_clearDepth, fun tex ht => ⟨?_, ?_⟩, fun s sel off ht hsel hoff => ?_, fun s sel k v hsel => ?_⟩
  · exact busEncodes_gxUnmapped (off := 0x356) ht (gxUnmapped_past_clearDepth ht (by decide))
  · exact busEncodes_gxUnmapped (off := 0x357) ht (gxUnmapped_past_clearDepth ht (by decide))
  · have hpast : 0x356 ≤ off.toNat ∧ off.toNat ≤ 0x357 := by rcases hoff with rfl | rfl <;> decide
    have hr := regAt_of_gxUnmapped (gxUnmapped_past_clearDepth ht hpast)
    obtain ⟨hread, -⟩ := exec_unmapped sel 0 hr hsel
    exact ⟨_, hread⟩
  · have hr := regAt_clearDepth s.cfg.texOffset k
    exact ⟨exec_read_mapped hsel hr rfl, exec_write_mapped hsel hr rfl⟩

end Sys2Proof.Machine
end

section
/-! SUPPORT. The proofs of the statements about the command queue (41_command_queue.md): Enqueue and R354's hold
(O33), when EXEC steps (O35), Opaque entries (O36), the FIFO of the two buffers (O37), the COUNT field (O38), and an
entry from its Enqueue to its EXEC (O40). -/

namespace Sys2Proof.Machine

/-! ### The execution step in the rules' own words (R183, R264) -/

/-- Recompute is R264 in full. -/
theorem recompute_eq_recomputed (d : Nat) (b : Blk) : b.recompute d = recomputed d b := recompute_eq d b

/-- Removal and refill, with the head of the pipe given (R183). -/
theorem takeHead_eq_afterRefill {b : Blk} {e : Entry} {rest : List Entry} (h : b.pipe = e :: rest) :
    b.takeHead = afterRefill rest b := by
  rw [takeHead_eq, h]
  rfl

/-- The end of an execution step whose command raised no fault (R183, R186). -/
theorem finishExec_ok (em : List Entry) (b : Blk) (s : State) :
    s.finishExec em (.ok b) = { executed s b with rendered := s.rendered ++ em } := by
  rw [State.finishExec, recompute_eq_recomputed]
  rfl

/-- R183: EXEC applies the command of the pipe's head to `S` after removal and refill. -/
theorem exec_exec_ok {s : State} {e : Entry} {rest : List Entry} {c : Command} {b : Blk} (hfault : s.blk.fault = none)
    (hpipe : s.blk.pipe = e :: rest) (hc : e.command = some c)
    (hb : applyCommand s.cfg.mulOrder c (afterRefill rest s.blk) = .ok b) :
    exec .exec s = .next { executed s b with rendered := s.rendered ++ c.emitted } := by
  rw [exec_exec hfault hpipe hc, takeHead_eq_afterRefill hpipe, hb, finishExec_ok]

/-- R184: with an empty pipe or a recorded fault EXEC has no step (log 8). -/
theorem exec_exec_not_enabled {s : State} (h : s.blk.pipe = [] ∨ s.blk.fault ≠ none) :
    exec .exec s = .fault .execNotEnabled := by
  simp only [exec, execExec]
  rcases hfault : s.blk.fault with _ | f
  · rw [h.resolve_right (not_not_intro hfault)]
  · rfl

/-- R120: port code 1 is EXEC, whatever its operand (log 16). -/
theorem decode_port_exec (tex : Option Offset) (operand : Byte) : decode tex (.port 0x01 operand) = .ok .exec := rfl

/-- R182, R185: under the invariant the head of the pipe has a command. -/
theorem Inv.head_command {s : State} (h : Inv s) {e : Entry} {rest : List Entry} (hpipe : s.blk.pipe = e :: rest) :
    ∃ c, e.command = some c := by
  have hmem : e ∈ s.blk.held := by rw [takeHead_held hpipe]; exact List.mem_cons_self
  exact (check_eq_none_iff e).1 (h.accepted e hmem)

/-- Settles O36. -/
theorem opaqueEntryIsForwarded : Obligations.OpaqueEntryIsForwarded := by
  intro s tag ps rest htag hfault hpipe
  exact exec_exec_ok hfault hpipe (opaque_command htag) rfl

/-- Settles O35. -/
theorem execStepsExactlyWhenEnabled : Obligations.ExecStepsExactlyWhenEnabled := by
  refine fun s operand h => ⟨decode_port_exec _ operand, fun hne hfault => ?_, exec_exec_not_enabled⟩
  obtain ⟨e, rest, hpipe⟩ := List.exists_cons_of_ne_nil hne
  obtain ⟨c, hc⟩ := h.head_command hpipe
  exact ⟨_, exec_exec hfault hpipe hc⟩

/-! ### Enqueue of an accepted entry (R180, R181) -/

section
variable {s : State} {e : Entry}

/-- R180: the pipe has room. -/
theorem enqueue_pipe (he : e.check = none) (hp : s.blk.pipe.length < Config.pipeCap) :
    s.enqueue e = { s with
      result := .accepted
      blk := recomputed s.cfg.gxIrqDelay { s.blk with pipe := s.blk.pipe ++ [e] } } := by
  simp only [State.enqueue, he, if_pos hp, recompute_eq_recomputed]
  rfl

/-- R180: the pipe is full and the queue has room. -/
theorem enqueue_queue (he : e.check = none) (hp : Config.pipeCap ≤ s.blk.pipe.length)
    (hq : s.blk.queue.length < Config.queueCap) :
    s.enqueue e = { s with
      result := .accepted
      blk := recomputed s.cfg.gxIrqDelay { s.blk with queue := s.blk.queue ++ [e] } } := by
  simp only [State.enqueue, he, if_neg (Nat.not_lt.2 hp), if_pos hq, recompute_eq_recomputed]
  rfl

/-- R181: both buffers are full. -/
theorem enqueue_full (he : e.check = none) (hp : Config.pipeCap ≤ s.blk.pipe.length)
    (hq : Config.queueCap ≤ s.blk.queue.length) : s.enqueue e = s.answerFull := by
  simp only [State.enqueue, he, if_neg (Nat.not_lt.2 hp), if_neg (Nat.not_lt.2 hq)]

/-- An accepted operation is the Enqueue of its entry (R180). -/
theorem exec_accepts {i : Instr} (h : Accepts i e) (s : State) : exec i s = .next (s.enqueue e) :=
  exec_cmdEntry (cmdEntry_of_accepts h) s

end

/-! ### The two buffers as one FIFO (R187) -/

/-- R38: at most 260 entries are held. -/
theorem Inv.held_length_le {s : State} (h : Inv s) : s.blk.held.length ≤ 260 := by
  have hp : s.blk.pipe.length ≤ 4 := h.pipeLe
  have hq : s.blk.queue.length ≤ 256 := h.queueLe
  rw [held_length]
  omega

/-- R38: 260 entries are held exactly when neither buffer has room. -/
theorem Inv.held_length_eq_iff {s : State} (h : Inv s) :
    s.blk.held.length = 260 ↔ 4 ≤ s.blk.pipe.length ∧ 256 ≤ s.blk.queue.length := by
  have hp : s.blk.pipe.length ≤ 4 := h.pipeLe
  have hq : s.blk.queue.length ≤ 256 := h.queueLe
  rw [held_length]
  omega

/-- R38: while the pipe has room the queue is empty. -/
theorem Inv.queue_eq_nil {s : State} (h : Inv s) (hp : s.blk.pipe.length < Config.pipeCap) : s.blk.queue = [] :=
  not_not.1 fun hq => hp.ne (h.refilled hq)

/-- R187: an accepted entry goes to the end of the held ones, or `Full` is answered at 260. -/
theorem Inv.enqueue_held {s : State} (h : Inv s) {e : Entry} (he : e.check = none) :
    (s.blk.held.length < 260 ∧ (s.enqueue e).result = .accepted ∧ (s.enqueue e).blk.held = s.blk.held ++ [e]) ∨
    (s.blk.held.length = 260 ∧ (s.enqueue e).result = .full ∧ (s.enqueue e).blk = s.blk) := by
  have hroom : ¬ (4 ≤ s.blk.pipe.length ∧ 256 ≤ s.blk.queue.length) → s.blk.held.length < 260 := fun hn =>
    lt_of_le_of_ne h.held_length_le (mt h.held_length_eq_iff.1 hn)
  by_cases hp : s.blk.pipe.length < Config.pipeCap
  · refine .inl ⟨hroom fun hf => absurd hf.1 (Nat.not_le.2 hp), ?_⟩
    rw [enqueue_pipe he hp]
    refine ⟨rfl, ?_⟩
    simp only [Blk.held, recomputed, h.queue_eq_nil hp, List.append_nil]
  · have hp := Nat.not_lt.1 hp
    by_cases hq : s.blk.queue.length < Config.queueCap
    · refine .inl ⟨hroom fun hf => absurd hf.2 (Nat.not_le.2 hq), ?_⟩
      rw [enqueue_queue he hp hq]
      refine ⟨rfl, ?_⟩
      simp only [Blk.held, recomputed, List.append_assoc]
    · have hq := Nat.not_lt.1 hq
      rw [enqueue_full he hp hq]
      exact .inr ⟨h.held_length_eq_iff.2 ⟨hp, hq⟩, rfl, rfl⟩

/-- R183: EXEC takes the oldest held entry, whatever its command does. -/
theorem exec_exec_takes_head {s t : State} (h : exec .exec s = .next t) : ∃ e, s.blk.held = e :: t.blk.held := by
  obtain ⟨e, rest, c, -, hpipe, -, rfl⟩ := exec_exec_next h
  exact ⟨e, by rw [finishExec_held, applyCommand_held, takeHead_held hpipe]⟩

/-- A bus read answers as no Enqueue does (R150). -/
theorem busRead_result (pg : Page) (addr : Addr) (s : State) :
    (s.busRead pg addr).result ≠ .accepted ∧ (s.busRead pg addr).result ≠ .full := by
  rcases busRead_cases pg addr s with ⟨v, e⟩ | e | e <;> rw [e] <;> exact ⟨nofun, nofun⟩

/-- A bus write answers as no Enqueue does (R151). -/
theorem busWrite_result (pg : Page) (addr : Addr) (v : Byte) (s : State) :
    (s.busWrite pg addr v).result ≠ .accepted ∧ (s.busWrite pg addr v).result ≠ .full := by
  rcases busWrite_cases pg addr v s with ⟨r, k, -, e⟩ | e | e <;> rw [e] <;> exact ⟨nofun, nofun⟩

/-- An execution step answers as no Enqueue does (R183). -/
theorem finishExec_result (em : List Entry) (a : Applied) (s : State) :
    (s.finishExec em a).result ≠ .accepted ∧ (s.finishExec em a).result ≠ .full := by
  rcases finishExec_cases em a s with ⟨b, -, e⟩ | ⟨f, b, -, e⟩ <;> rw [e] <;> exact ⟨nofun, nofun⟩

section
variable {s t : State} {i : Instr}

/-- `Accepted` and `Full` are the answers of CMD operations alone (R180, R181). -/
theorem exec_result_of_not_cmd (h : exec i s = .next t) (hi : cmdEntry i = none) :
    t.result ≠ .accepted ∧ t.result ≠ .full := by
  rcases exec_next_cases h with ⟨pg, addr, -, rfl⟩ | ⟨pg, addr, v, -, rfl⟩ | ⟨e, hcmd, -⟩ |
    ⟨-, e, rest, c, -, -, -, rfl⟩ | ⟨-, rfl⟩ | ⟨src, -, ⟨-, rfl⟩ | ⟨-, rfl⟩⟩ | ⟨v, -, rfl⟩ | ⟨-, rfl⟩ | ⟨-, rfl⟩ |
    ⟨code, -, rfl⟩
  · exact busRead_result pg addr s
  · exact busWrite_result pg addr v s
  · cases hi.symm.trans hcmd
  · exact finishExec_result _ _ s
  all_goals exact ⟨nofun, nofun⟩

/-- Beside the CMD operations, EXEC and RESET alone move a held entry (R187, R350). -/
theorem exec_held_of_not_cmd (h : exec i s = .next t) (hi : cmdEntry i = none) :
    i = .exec ∨ i = .reset ∨ t.blk.held = s.blk.held := by
  rcases exec_next_cases h with ⟨pg, addr, -, rfl⟩ | ⟨pg, addr, v, -, rfl⟩ | ⟨e, hcmd, -⟩ | ⟨hexec, -⟩ | ⟨-, rfl⟩ |
    ⟨src, -, ⟨-, rfl⟩ | ⟨-, rfl⟩⟩ | ⟨v, -, rfl⟩ | ⟨-, rfl⟩ | ⟨hreset, -⟩ | ⟨code, -, rfl⟩
  · exact .inr (.inr (busRead_held pg addr s))
  · exact .inr (.inr (busWrite_held pg addr v s))
  · cases hi.symm.trans hcmd
  · exact .inl hexec
  · exact .inr (.inr (tick_held _ s.blk))
  · exact .inr (.inr rfl)
  · exact .inr (.inr rfl)
  · exact .inr (.inr rfl)
  · exact .inr (.inr rfl)
  · exact .inr (.inl hreset)
  · exact .inr (.inr rfl)

/-- All an operation can do to the held entries (R187): one more at their end if it answers `Accepted`; if not, EXEC
and RESET alone move one. -/
theorem Inv.exec_held_cases (hinv : Inv s) (h : Machine.exec i s = .next t) :
    (t.result = .accepted ∧ ∃ e, t.blk.held = s.blk.held ++ [e]) ∨
    (t.result ≠ .accepted ∧ (i = .exec ∨ i = .reset ∨ t.blk.held = s.blk.held)) := by
  rcases hi : cmdEntry i with _ | e
  · exact .inr ⟨(exec_result_of_not_cmd h hi).1, exec_held_of_not_cmd h hi⟩
  · cases (exec_cmdEntry hi s).symm.trans h
    rcases hcheck : e.check with _ | r
    · rcases hinv.enqueue_held hcheck with ⟨-, hres, hheld⟩ | ⟨-, hres, hblk⟩
      · exact .inl ⟨hres, e, hheld⟩
      · exact .inr ⟨by rw [hres]; nofun, .inr (.inr (congrArg Blk.held hblk))⟩
    · rw [State.enqueue, hcheck]
      exact .inr ⟨nofun, .inr (.inr rfl)⟩

end

/-- Settles O37. -/
theorem buffersAreOneFifo : Obligations.BuffersAreOneFifo := by
  refine fun s h => ⟨fun i e hacc => ⟨_, exec_accepts hacc s, h.enqueue_held (check_of_accepts hacc)⟩,
    fun t hexec => exec_exec_takes_head hexec, fun i t hcmd hne hreset hexec => ?_⟩
  exact ((exec_held_of_not_cmd hexec hcmd).resolve_left hne).resolve_left hreset

/-! ### The COUNT field (R188) -/

/-- A flag is bit 0 of its word, so shifted to bit `n` it reaches no other bit (R262). -/
theorem flagWord_shiftLeft_getLsbD {n j : Nat} (f : Bool) (h : j ≠ n) : (flagWord f <<< n).getLsbD j = false := by
  have hflag : ∀ k, k ≠ 0 → (flagWord f).getLsbD k = false := by
    intro k hk
    cases f <;> simp [flagWord, hk]
  rw [BitVec.getLsbD_shiftLeft]
  rcases Nat.lt_or_gt_of_ne h with h | h
  · simp [h]
  · rw [hflag (j - n) (by omega), Bool.and_false]

/-- R262: bits 24:16 of GXSTAT are the COUNT field; no other field of `GXSTAT_value` reaches them. -/
theorem gxstatValue_count (b : Blk) : b.gxstatValue.extractLsb' 16 9 = BitVec.ofNat 9 b.countField := by
  apply BitVec.eq_of_getLsbD_eq
  intro i hi
  have htest : (b.test.setWidth 32).getLsbD (16 + i) = false := by
    rw [BitVec.getLsbD_setWidth, BitVec.getLsbD_of_ge _ _ (by omega), Bool.and_false]
  have hmode : (b.irqMode.setWidth 32 <<< 30).getLsbD (16 + i) = false := by
    simp only [BitVec.getLsbD_shiftLeft, show 16 + i < 30 by omega, decide_true, Bool.not_true, Bool.and_false,
      Bool.false_and]
  have hcount : (BitVec.ofNat 32 b.countField <<< 16).getLsbD (16 + i) = (BitVec.ofNat 9 b.countField).getLsbD i := by
    rw [BitVec.getLsbD_shiftLeft, BitVec.getLsbD_ofNat, BitVec.getLsbD_ofNat, Nat.add_sub_cancel_left]
    simp [hi, show i < 32 by omega, show 16 + i < 32 by omega]
  rw [BitVec.getLsbD_extractLsb', Blk.gxstatValue]
  simp only [BitVec.getLsbD_or, htest, hmode, hcount, flagWord_shiftLeft_getLsbD _ (show 16 + i ≠ 14 by omega),
    flagWord_shiftLeft_getLsbD _ (show 16 + i ≠ 15 by omega), flagWord_shiftLeft_getLsbD _ (show 16 + i ≠ 27 by omega),
    hi, decide_true, Bool.true_and, Bool.false_or, Bool.or_false]

/-- R31, R188: a count of at most 511 is read whole. -/
theorem gxstatValue_count_toNat {b : Blk} (h : b.count ≤ Config.maxCountField) :
    (b.gxstatValue.extractLsb' 16 9).toNat = b.held.length := by
  have hlt : b.count < 2 ^ 9 := Nat.lt_succ_of_le h
  rw [gxstatValue_count, BitVec.toNat_ofNat, Blk.countField, Nat.min_eq_left h, Nat.mod_eq_of_lt hlt, held_length,
    Blk.count, Nat.add_comm]

/-- Settles O38. -/
theorem countFollowsEnqueueAndExec : Obligations.CountFollowsEnqueueAndExec := by
  intro s t i h hexec
  refine ⟨gxstatValue_count_toNat ?_, ?_, fun hacc => ?_, fun hne hreset hacc => ?_⟩
  · have hle := (h.exec hexec).held_length_le
    rw [held_length, Nat.add_comm] at hle
    exact hle.trans (by decide)
  · rintro rfl
    obtain ⟨e, he⟩ := exec_exec_takes_head hexec
    rw [he, List.length_cons]
  · rcases h.exec_held_cases hexec with ⟨-, e, hheld⟩ | ⟨hn, -⟩
    · rw [hheld, List.length_append, List.length_singleton]
    · exact absurd hacc hn
  · rcases h.exec_held_cases hexec with ⟨hres, -⟩ | ⟨-, hmove⟩
    · exact absurd hres hacc
    · rw [(hmove.resolve_left hne).resolve_left hreset]

/-! ### From Enqueue to EXEC (R180, R183) -/

/-- With no entry held an accepted entry goes alone into the pipe (R180). -/
theorem exec_accepts_empty {s : State} {i : Instr} {e : Entry} (h : Accepts i e) (hpipe : s.blk.pipe = []) :
    exec i s = .next { s with
      result := .accepted
      blk := recomputed s.cfg.gxIrqDelay { s.blk with pipe := [e] } } := by
  have hroom : s.blk.pipe.length < Config.pipeCap := by rw [hpipe]; decide
  rw [exec_accepts h, enqueue_pipe (check_of_accepts h) hroom, hpipe, List.nil_append]

/-- Two operations in a row are the second one after the first (R89). -/
theorem execAll_pair {s t u : State} {i j : Instr} (hi : exec i s = .next t) (hj : exec j t = .next u) :
    execAll [i, j] s = .next u := by
  simp only [execAll, hi, hj]

/-- A command without a fault does the same to the engine whatever the rest of `S` is (R213-R221). -/
theorem applyCommand_withEngine_ok {o : MulOrder} {c : Command} {b b' : Blk} (h : applyCommand o c b = .ok b')
    (w : Blk) : applyCommand o c (withEngine w b) = .ok (withEngine w b') := by
  rw [applyCommand_withEngine, h]
  rfl

/-- Settles O40: Enqueue, removal and refill leave the engine as it was, so the command finds at EXEC what it was
enqueued with. -/
theorem enqueuedCommandTakesEffectAtExec : Obligations.EnqueuedCommandTakesEffectAtExec := by
  intro s i e c b hacc hc hheld hfault hb
  obtain ⟨hpipe, hqueue⟩ := List.append_eq_nil_iff.1 hheld
  have henqueue := exec_accepts_empty hacc hpipe
  have hb' := applyCommand_withEngine_ok hb
    (afterRefill [] (recomputed s.cfg.gxIrqDelay { s.blk with pipe := [e] }))
  refine ⟨_, execAll_pair henqueue (exec_exec_ok hfault rfl hc hb'), rfl, rfl, rfl, rfl, rfl, rfl, rfl, rfl, rfl, rfl,
    rfl, rfl, rfl, rfl, ?_, rfl⟩
  exact (List.take_append_drop 1 s.blk.queue).trans hqueue

/-! ### The bus layer's hold (R354, log 14) -/

/-- The case of R181: the pipe and the queue are both full. -/
theorem noRoom_iff (b : Blk) : b.noRoom = true ↔ 4 ≤ b.pipe.length ∧ 256 ≤ b.queue.length := by
  simp only [Blk.noRoom, Bool.and_eq_true, decide_eq_true_eq]
  rfl

/-- What is encoded as an entry is the CMD row of that entry (R112). -/
theorem cmdEntry_of_encode {i : Instr} {e : Entry} (h : encode i = .cmd e) : cmdEntry i = some e := by
  cases i <;> simp only [encode, encodeBus, RawOp.cmd.injEq, reduceCtorEq] at h <;> subst h <;> rfl

/-- A CMD operation decodes to the row of its entry (R112). -/
theorem cmdEntry_decodeCmd (e : Entry) : cmdEntry (decodeCmd e) = some e :=
  cmdEntry_of_encode (decodeCmd_spec none e).2

/-- No BUS operation decodes to a CMD row (R119). -/
theorem cmdEntry_decodeBusWord (tex : Option Offset) (word : BusWord) (sel : PageSel) (v : Byte) :
    cmdEntry (decodeBusWord tex word sel v) = none := by
  simp only [decodeBusWord, apply_ite cmdEntry]
  simp only [cmdEntry, ite_self]

/-- CMD operations alone decode to CMD rows (R110). -/
theorem eq_cmd_of_decode {tex : Option Offset} {op : RawOp} {i : Instr} {e : Entry} (hdec : decode tex op = .ok i)
    (hi : cmdEntry i = some e) : op = .cmd e := by
  cases op with
  | cmd e' =>
    cases hdec
    rw [cmdEntry_decodeCmd, Option.some.injEq] at hi
    rw [hi]
  | bus word addr v =>
    rw [decode] at hdec
    split at hdec
    · cases hdec
      rw [cmdEntry_decodeBusWord] at hi
      cases hi
    · cases hdec
  | port code operand =>
    cases hdec
    cases (encode_of_cmdEntry hi).symm.trans (decodePort_spec tex code operand).2

/-- `Full` is the answer to an entry presented without room (R181). -/
theorem enqueue_result_full {e : Entry} {s : State} (h : (s.enqueue e).result = .full) : s.blk.noRoom = true := by
  rcases enqueue_cases e s with ⟨r, -, eq⟩ | ⟨-, -, eq⟩ | ⟨-, -, -, eq⟩ | ⟨-, hp, hq, -⟩
  · rw [eq] at h; cases h
  · rw [eq] at h; cases h
  · rw [eq] at h; cases h
  · exact (noRoom_iff s.blk).2 ⟨hp, hq⟩

/-- An operation answers `Full` only if it presents an entry without room (R181). -/
theorem exec_result_full {s t : State} {i : Instr} (h : exec i s = .next t) (hfull : t.result = .full) :
    (∃ e, cmdEntry i = some e) ∧ s.blk.noRoom = true := by
  rcases hi : cmdEntry i with _ | e
  · exact absurd hfull (exec_result_of_not_cmd h hi).2
  · cases (exec_cmdEntry hi s).symm.trans h
    exact ⟨⟨e, rfl⟩, enqueue_result_full hfull⟩

/-- A performed operation that has a next state is one that decodes and steps (R89). -/
theorem System.perform_next_iff {y z : System} {op : RawOp} {program : List RawOp} {turns : List Turn} :
    y.perform op program turns = .next z ↔
      ∃ i t, decode y.core.cfg.texOffset op = .ok i ∧ exec i y.core = .next t ∧ z = ⟨t, program, turns⟩ := by
  rcases hdec : decode y.core.cfg.texOffset op with err | i
  · simp [System.perform, Machine.step, hdec]
  · have hstep : Machine.step { y.core with inputs := op :: y.core.inputs } = exec i y.core := step_of_decode rfl hdec
    rw [System.perform, hstep]
    rcases hexec : exec i y.core with t | r | r <;> simp [hexec, eq_comm]

section
variable {y z : System} {turns : List Turn}

/-- A turn of another agent performs its operation (R89). -/
theorem System.step_port {code operand : Byte} (ht : y.turns = .port code operand :: turns) :
    y.step = y.perform (.port code operand) y.program turns := by
  simp only [System.step, ht]

/-- A turn of the bus agent performs the next operation of its program, unless it is held (R354). -/
theorem System.step_bus {op : RawOp} {program : List RawOp} (ht : y.turns = .bus :: turns)
    (hp : y.program = op :: program) :
    y.step = if y.held then .next { y with turns := turns } else y.perform op program turns := by
  simp only [System.step, ht, hp]

/-- A bus agent that presents an entry is held while there is no room (R354). -/
theorem System.held_cmd {e : Entry} {program : List RawOp} (hp : y.program = .cmd e :: program) :
    y.held = y.core.blk.noRoom := by
  simp only [System.held, hp]

/-- All a turn can do: pass, or perform an operation, which presents an entry only where there is room (R354). -/
theorem System.step_next_cases (h : y.step = .next z) :
    z.core = y.core ∨
    ∃ op i, decode y.core.cfg.texOffset op = .ok i ∧ exec i y.core = .next z.core ∧
      ∀ e, op = .cmd e → y.core.blk.noRoom = false := by
  rcases ht : y.turns with _ | ⟨_ | ⟨code, operand⟩, turns⟩
  · simp only [System.step, ht] at h
    cases h
  · rcases hp : y.program with _ | ⟨op, program⟩
    · simp only [System.step, ht, hp] at h
      cases h
      exact .inl rfl
    · rw [System.step_bus ht hp] at h
      rcases hheld : y.held with _ | _
      · rw [hheld] at h
        obtain ⟨i, t, hdec, hexec, rfl⟩ := System.perform_next_iff.1 h
        refine .inr ⟨op, i, hdec, hexec, ?_⟩
        rintro e rfl
        rw [← System.held_cmd hp, hheld]
      · rw [hheld] at h
        cases h
        exact .inl rfl
  · rw [System.step_port ht] at h
    obtain ⟨i, t, hdec, hexec, rfl⟩ := System.perform_next_iff.1 h
    exact .inr ⟨_, i, hdec, hexec, nofun⟩

/-- R354: no turn loses an entry, so none sets the mark (log 14). -/
theorem System.step_overrun (h : y.step = .next z) : z.core.overrun = y.core.overrun := by
  rcases System.step_next_cases h with hcore | ⟨op, i, hdec, hexec, hroom⟩
  · rw [hcore]
  · have hfull : z.core.result ≠ .full := by
      intro hfull
      obtain ⟨⟨e, hi⟩, hno⟩ := exec_result_full hexec hfull
      exact Bool.false_ne_true ((hroom e (eq_cmd_of_decode hdec hi)).symm.trans hno)
    have hiff := (marksKept_exec hexec).overrunIff
    rw [Bool.eq_iff_iff, hiff]
    exact or_iff_left hfull

/-- R354: an EXEC turn leaves the bus agent's program as it is and makes room in the buffers. -/
theorem System.step_exec (hinv : Inv y.core) {operand : Byte} (ht : y.turns = .port 0x01 operand :: turns)
    (h : y.step = .next z) :
    z.program = y.program ∧ (z.core.blk.pipe.length < 4 ∨ z.core.blk.queue.length < 256) := by
  rw [System.step_port ht] at h
  obtain ⟨i, t, hdec, hexec, rfl⟩ := System.perform_next_iff.1 h
  cases (decode_port_exec _ operand).symm.trans hdec
  refine ⟨rfl, ?_⟩
  obtain ⟨e, he⟩ := exec_exec_takes_head hexec
  have hle := hinv.held_length_le
  rw [he, List.length_cons, held_length] at hle
  dsimp only
  omega

/-- R180, R354: with room the waiting entry is presented, and not answered `Full`. -/
theorem System.step_cmd {e : Entry} {program : List RawOp} (hp : y.program = .cmd e :: program)
    (ht : y.turns = .bus :: turns) (hroom : y.core.blk.noRoom = false) :
    ∃ i t, decode y.core.cfg.texOffset (.cmd e) = .ok i ∧ exec i y.core = .next t ∧ t.result ≠ .full ∧
      y.step = .next ⟨t, program, turns⟩ := by
  have hexec := exec_cmdEntry (cmdEntry_decodeCmd e) y.core
  refine ⟨_, _, rfl, hexec, fun hfull => ?_, ?_⟩
  · exact Bool.false_ne_true (hroom.symm.trans (enqueue_result_full hfull))
  · rw [System.step_bus ht hp, System.held_cmd hp, hroom]
    exact System.perform_next_iff.2 ⟨_, _, rfl, hexec, rfl⟩

end

/-- Settles O33. -/
theorem enqueueFillsThePipeThenTheQueue : Obligations.EnqueueFillsThePipeThenTheQueue := by
  refine ⟨fun s i e hacc => ?_, fun y e program turns hp ht => ⟨fun hpipe hqueue => ?_, fun hroom => ?_⟩,
    fun y z operand turns hinv ht h => System.step_exec hinv ht h, fun y z h => System.step_overrun h⟩
  · have he := check_of_accepts hacc
    rw [exec_accepts hacc]
    exact ⟨congrArg _ (accepts_decode hacc), fun hpipe => congrArg _ (enqueue_pipe he hpipe),
      fun hpipe hqueue => congrArg _ (enqueue_queue he hpipe hqueue),
      fun hpipe hqueue => congrArg _ (enqueue_full he hpipe hqueue)⟩
  · rw [System.step_bus ht hp, System.held_cmd hp, (noRoom_iff _).2 ⟨hpipe, hqueue⟩]
    rfl
  · refine System.step_cmd hp ht (Bool.eq_false_iff.2 fun hno => ?_)
    obtain ⟨hpipe, hqueue⟩ := (noRoom_iff _).1 hno
    omega

end Sys2Proof.Machine
end

section
/-! SUPPORT. The proofs of the statements about the matrix engine (42_matrix_engine.md): SetMode (O41), the loads and
Multiply (O42-O44), the fixed-point product (O45, O46), the stacks (O47-O50), and Pop after Push (O51). -/

namespace Sys2Proof.Machine

/-! ### The engine's operations in R212's rows -/

/-- R41: every two-bit code names a mode, and is that mode's code. -/
theorem Mode.toBits_ofBits : ∀ c : BitVec 2, (Mode.ofBits c).toBits = c := by decide

/-- R212's column "capacity". -/
theorem Mode.cap_eq_capacity (m : Mode) : m.cap = ByMode.capacity m := by cases m <;> rfl

/-- R212's column "pointer". -/
theorem sp_eq_pointer (b : Blk) : b.sp = ByMode.pointer b := by
  unfold Blk.sp ByMode.pointer; cases b.mode <;> rfl

/-- R212's column "pointer", written. -/
theorem setSp_eq_withPointer (n : Nat) (b : Blk) : b.setSp n = ByMode.withPointer n b := by
  rw [setSp_eq]; unfold ByMode.withPointer; cases b.mode <;> rfl

/-- R212's column "load/multiply targets". -/
theorem mapTargets_eq_onTargets (f : Matrix → Matrix) (b : Blk) : b.mapTargets f = ByMode.onTargets f b := by
  rw [mapTargets_eq]; unfold ByMode.onTargets; cases b.mode <;> rfl

/-- Push, row by row (R218). -/
theorem applyPush_eq_push (b : Blk) : applyPush b = ByMode.push b := by
  rw [applyPush, setSp_eq, saveAt_eq]
  unfold ByMode.push Blk.sp Blk.setOverflow
  cases b.mode <;> rfl

/-- StoreToStack, row by row (R220). -/
theorem applyStoreToStack_eq_store (slot : Nat) (b : Blk) : applyStoreToStack slot b = ByMode.store slot b := by
  rw [applyStoreToStack, saveAt_eq]
  unfold ByMode.store Blk.setOverflow
  cases b.mode <;> rfl

/-- A restore from a slot that exists loads the saved matrices of R212. -/
theorem restoreFrom_restores {b : Blk} {i : Nat} (h : i < b.mode.cap) : ByMode.Restores i b (b.restoreFrom i) := by
  rw [restoreFrom_eq]
  unfold ByMode.Restores
  cases hm : b.mode <;> simp only [hm, Mode.cap, Config.projCap, Config.pvCap, Config.texCap] at h <;>
    exact ⟨h, by simp only [Vector.getElem?_eq_getElem h, Option.getD_some]⟩

/-! ### Pop's three cases (R219) -/

section
variable {b : Blk} {n : Nat}

/-- The pointer is below the count: it is clamped to 0. -/
theorem applyPop_of_lt (h : b.sp < n) : applyPop n b = .ok (b.setUnderflow.setSp 0) := if_pos h

/-- The slot popped to exists. -/
theorem applyPop_of_lt_cap (hn : n ≤ b.sp) (h : b.sp - n < b.mode.cap) :
    applyPop n b = .ok ((b.setSp (b.sp - n)).restoreFrom (b.sp - n)) := by
  simp only [applyPop, if_neg (Nat.not_lt.2 hn), if_neg (Nat.not_le.2 h)]

/-- The slot popped to is past the stack: the pointer is written and the fault raised. -/
theorem applyPop_of_cap_le (hn : n ≤ b.sp) (h : b.mode.cap ≤ b.sp - n) :
    applyPop n b = .raised (.stackIndex b.mode (b.sp - n)) (b.setSp (b.sp - n)) := by
  simp only [applyPop, if_neg (Nat.not_lt.2 hn), if_pos h]

end

/-! ### The execution step of a matrix command (R183) -/

section
variable {s : State} {e : Entry} {rest : List Entry} {c : Command}

/-- A matrix command that raises no fault: it emits nothing, and `S` is what it made of the refilled record. -/
theorem exec_exec_matrix (hfault : s.blk.fault = none) (hpipe : s.blk.pipe = e :: rest) (hc : e.command = some c)
    (hem : c.emitted = []) {b : Blk} (hb : applyCommand s.cfg.mulOrder c (afterRefill rest s.blk) = .ok b) :
    exec .exec s = .next (executed s b) := by
  rw [exec_exec_ok hfault hpipe hc hb, hem, List.append_nil]
  rfl

/-- A command that raises a fault, the first of the run: Recompute runs, and the fault is recorded (R183, R265). -/
theorem exec_exec_raised (hfault : s.blk.fault = none) (hpipe : s.blk.pipe = e :: rest) (hc : e.command = some c)
    {f : ModelFault} {b : Blk} (hb : applyCommand s.cfg.mulOrder c (afterRefill rest s.blk) = .raised f b)
    (hbf : b.fault = none) :
    exec .exec s = .next { s with
      result := .raised f
      blk := { recomputed s.cfg.gxIrqDelay b with fault := some f } } := by
  have hrec : (recomputed s.cfg.gxIrqDelay b).fault = none := hbf
  rw [exec_exec hfault hpipe hc, takeHead_eq_afterRefill hpipe, hb, State.finishExec, raiseFault_eq]
  simp only [State.ok_blk, recompute_eq_recomputed, hrec, if_true]
  rfl

end

/-- Settles O41. -/
theorem setModeSelectsTheMode : Obligations.SetModeSelectsTheMode := fun _ p _ hfault hpipe =>
  ⟨modeOperand p, Mode.toBits_ofBits _, exec_exec_matrix hfault hpipe rfl rfl rfl⟩

/-- Settles O42, with the elements of the identity (R211). -/
theorem loadIdentityWritesItsTargets : Obligations.LoadIdentityWritesItsTargets := fun _ _ hfault hpipe =>
  ⟨identity, identity_get, exec_exec_matrix hfault hpipe rfl rfl (congrArg _ (mapTargets_eq_onTargets _ _))⟩

/-- Settles O43, with the elements of the operand (R117). -/
theorem loadMatrixWritesItsTargets : Obligations.LoadMatrixWritesItsTargets := fun _ ps _ hlen hfault hpipe =>
  ⟨matrixOperand ps, matrixOperand_get hlen,
    exec_exec_matrix hfault hpipe (command_16 hlen rfl rfl) rfl (congrArg _ (mapTargets_eq_onTargets _ _))⟩

/-- Settles O44: one execution step, read under each of R216's operand orders. -/
theorem multiplyCombinesItsTargets : Obligations.MultiplyCombinesItsTargets := by
  intro s ps rest hlen hfault hpipe
  have hexec := exec_exec_matrix hfault hpipe (command_16 hlen rfl rfl) rfl
    (congrArg Applied.ok (mapTargets_eq_onTargets (product s.cfg.mulOrder (matrixOperand ps)) _))
  refine ⟨matrixOperand ps, matrixOperand_get hlen, fun horder => ?_, fun horder => ?_⟩ <;>
    rw [hexec, horder] <;> rfl

/-! ### The fixed-point product (R210) -/

/-- Below 2^63 in magnitude an element is the narrowed exact sum (I13). -/
theorem productElement_eq_narrow {A B : Matrix} {i j : Fin 4} (h : -2 ^ 63 < dot A B i j ∧ dot A B i j < 2 ^ 63) :
    productElement A B i j = narrow (dot A B i j) := by
  rw [productElement, inAccumulator, if_pos (by simpa using h)]

/-- Narrowing is the floor over 2^12, modulo 2^32 (R8, R210). -/
theorem narrow_modEq (n : Int) : (narrow n).toInt ≡ n / 4096 [ZMOD 2 ^ 32] := by
  rw [narrow, BitVec.toInt_ofInt, Int.shiftRight_eq_div_pow]
  exact Int.bmod_emod

/-- Narrowing undoes the multiplication by `ONE`. -/
theorem narrow_one_mul (x : Word) : narrow (4096 * x.toInt) = x := by
  rw [narrow, Int.shiftRight_eq_div_pow]
  simp [Config.fracBits]

/-- Settles O45: below 2^63 the element is the narrowed sum. -/
theorem productElementIsFlooredAndWrapped : Obligations.ProductElementIsFlooredAndWrapped := by
  rintro A B i j n hn hlo hhi
  rw [← dot_eq_sum] at hn
  subst hn
  rw [matMul_get, productElement_eq_narrow ⟨hlo, hhi⟩]
  exact ⟨⟨BitVec.le_toInt _, BitVec.toInt_lt⟩, narrow_modEq _⟩

/-- A product's element whose exact sum is `ONE` times a word is that word (R211): the sum is far below 2^63. -/
theorem productElement_of_dot {A B : Matrix} {i j : Fin 4} {x : Word} (h : dot A B i j = 4096 * x.toInt) :
    productElement A B i j = x := by
  have hlo := BitVec.le_toInt x
  have hhi := BitVec.toInt_lt (x := x)
  rw [productElement_eq_narrow (by rw [h]; constructor <;> omega), h, narrow_one_mul]

/-- The identity's elements as signed numbers (R211). -/
theorem identity_toInt (i j : Fin 4) : (identity[i][j]).toInt = if i = j then 4096 else 0 := by
  rw [identity_get]; split <;> rfl

/-- Settles O46: only the diagonal's product is left in each sum. -/
theorem identityIsNeutral : Obligations.IdentityIsNeutral := by
  refine fun X => ⟨matrix_ext fun i j => ?_, matrix_ext fun i j => ?_⟩ <;> rw [matMul_get]
  · apply productElement_of_dot
    simp only [dot_eq_sum, identity_toInt, ite_mul, zero_mul, Finset.sum_ite_eq, Finset.mem_univ, if_true]
  · apply productElement_of_dot
    simp only [dot_eq_sum, identity_toInt, mul_ite, mul_zero, Finset.sum_ite_eq', Finset.mem_univ, if_true]
    exact mul_comm _ _

/-! ### The stacks -/

/-- Settles O47. -/
theorem pushSavesOrOverflows : Obligations.PushSavesOrOverflows := fun _ _ hfault hpipe =>
  exec_exec_matrix hfault hpipe rfl rfl (congrArg Applied.ok (applyPush_eq_push _))

/-- Settles O48, case by case of `applyPop`. -/
theorem popRestoresUnderflowsOrFaults : Obligations.PopRestoresUnderflowsOrFaults := by
  rintro s p rest n sp b hfault hpipe rfl rfl rfl
  set b := afterRefill rest s.blk
  have hc : (Entry.mk 0x12 [p]).command = some (.pop (popOperand p)) := rfl
  have hsp : b.sp = ByMode.pointer s.blk := sp_eq_pointer b
  have hcap : b.mode.cap = ByMode.capacity s.blk.mode := b.mode.cap_eq_capacity
  rw [← hsp, ← hcap]
  simp only [← setSp_eq_withPointer]
  refine ⟨fun hlt => ?_, fun hle hlt => ?_, fun hle hge => ?_⟩
  · exact exec_exec_matrix hfault hpipe hc rfl (applyPop_of_lt hlt)
  · refine ⟨_, restoreFrom_restores ?_, exec_exec_matrix hfault hpipe hc rfl (applyPop_of_lt_cap hle hlt)⟩
    rwa [Blk.setSp_mode]
  · exact exec_exec_raised hfault hpipe hc (applyPop_of_cap_le hle hge) (by rw [Blk.setSp_fault]; exact hfault)

/-- Settles O49. -/
theorem storeToStackStoresOrOverflows : Obligations.StoreToStackStoresOrOverflows := fun _ _ _ hfault hpipe =>
  exec_exec_matrix hfault hpipe rfl rfl (congrArg Applied.ok (applyStoreToStack_eq_store _ _))

/-- Settles O50: a slot below the capacity exists, so the restore loads it. -/
theorem restoreFromStackRestoresOrOverflows : Obligations.RestoreFromStackRestoresOrOverflows := by
  rintro s p rest slot b hfault hpipe rfl rfl
  have hc : (Entry.mk 0x14 [p]).command = some (.restoreFromStack (slotOperand p)) := rfl
  rw [← Mode.cap_eq_capacity]
  refine ⟨fun hge => ?_, fun hlt => ⟨_, restoreFrom_restores hlt, ?_⟩⟩
  · exact exec_exec_matrix hfault hpipe hc rfl (congrArg Applied.ok (if_pos hge))
  · exact exec_exec_matrix hfault hpipe hc rfl (congrArg Applied.ok (if_neg (Nat.not_le.2 hlt)))

/-! ### What a current matrix, a slot and the pointer are after each of the engine's operations -/

/-- R212: a mode saves the matrices it targets. -/
theorem Mode.targets_subset_saved (m : Mode) : m.targets ⊆ m.saved := by cases m <;> simp [Mode.targets, Mode.saved]

@[simp] theorem mapTargets_mode (f : Matrix → Matrix) (b : Blk) : (b.mapTargets f).mode = b.mode := by
  rw [mapTargets_eq]; cases b.mode <;> rfl

@[simp] theorem saveAt_mode (i : Nat) (b : Blk) : (b.saveAt i).mode = b.mode := by
  obtain ⟨-, -, -, hmode⟩ := saveAt_sps i b
  exact hmode

@[simp] theorem mapTargets_sp (f : Matrix → Matrix) (b : Blk) : (b.mapTargets f).sp = b.sp := by
  rw [mapTargets_eq]; unfold Blk.sp; cases b.mode <;> rfl

@[simp] theorem restoreFrom_sp (i : Nat) (b : Blk) : (b.restoreFrom i).sp = b.sp := by
  rw [restoreFrom_eq]; unfold Blk.sp; cases b.mode <;> rfl

@[simp] theorem setSp_sp (n : Nat) (b : Blk) : (b.setSp n).sp = n := by
  rw [setSp_eq]; unfold Blk.sp; cases b.mode <;> rfl

@[simp] theorem setSp_slot (n : Nat) (b : Blk) : (b.setSp n).slot = b.slot := by
  rw [setSp_eq]; cases b.mode <;> rfl

@[simp] theorem setSp_current (n : Nat) (b : Blk) : (b.setSp n).current = b.current := by
  rw [setSp_eq]; cases b.mode <;> rfl

@[simp] theorem saveAt_current (i : Nat) (b : Blk) : (b.saveAt i).current = b.current := by
  rw [saveAt_eq]; cases b.mode <;> rfl

@[simp] theorem mapTargets_slot (f : Matrix → Matrix) (b : Blk) : (b.mapTargets f).slot = b.slot := by
  rw [mapTargets_eq]; cases b.mode <;> rfl

/-- Load and multiply change the targets, and no other current matrix. -/
theorem mapTargets_current (f : Matrix → Matrix) (b : Blk) (c : MatrixClass) :
    (b.mapTargets f).current c = if c ∈ b.mode.targets then f (b.current c) else b.current c := by
  rw [mapTargets_eq]; cases b.mode <;> cases c <;> rfl

/-- A restore loads the saved classes from their slots, and changes no other current matrix. -/
theorem restoreFrom_current (i : Nat) (b : Blk) (c : MatrixClass) :
    (b.restoreFrom i).current c = if c ∈ b.mode.saved then (b.slot c i).getD (b.current c) else b.current c := by
  rw [restoreFrom_eq]; cases b.mode <;> cases c <;> rfl

/-- A slot that exists holds what was saved there. -/
theorem saveAt_slot {b : Blk} {i : Nat} (h : i < b.mode.cap) :
    ∀ c ∈ b.mode.saved, (b.saveAt i).slot c i = some (b.current c) := by
  rw [saveAt_eq]
  cases hm : b.mode <;> simp only [hm, Mode.cap, Config.projCap, Config.pvCap, Config.texCap] at h <;>
    simp [Mode.saved, Blk.slot, Blk.current, h]

/-! ### Pop after Push (R218, R219) -/

/-- A save, any change of the targets, and a restore from the saved slot: every current matrix is as before. -/
theorem restoreFrom_mapTargets_saveAt_current {b : Blk} {i : Nat} (h : i < b.mode.cap) (f : Matrix → Matrix)
    (m n : Nat) (c : MatrixClass) :
    (((((b.saveAt i).setSp m).mapTargets f).setSp n).restoreFrom i).current c = b.current c := by
  simp only [restoreFrom_current, Blk.setSp_mode, mapTargets_mode, saveAt_mode, setSp_slot, mapTargets_slot]
  split_ifs with hc
  · rw [saveAt_slot h c hc, Option.getD_some]
  · have htarget : c ∉ b.mode.targets := fun hmem => hc (b.mode.targets_subset_saved hmem)
    simp only [setSp_current, mapTargets_current, Blk.setSp_mode, saveAt_mode, if_neg htarget, saveAt_current]

/-- Settles O51: Push leaves the pointer one above the saved slot, and Pop restores from that slot. -/
theorem popUndoesPush : Obligations.PopUndoesPush := by
  intro b f hlt
  rw [← sp_eq_pointer, ← Mode.cap_eq_capacity] at hlt
  have hpush : applyPush b = (b.saveAt b.sp).setSp (b.sp + 1) := if_neg hlt.ne
  rw [← mapTargets_eq_onTargets, hpush]
  set pushed := ((b.saveAt b.sp).setSp (b.sp + 1)).mapTargets f with hpushed
  have hsp : pushed.sp = b.sp + 1 := by simp only [hpushed, mapTargets_sp, setSp_sp]
  have hmode : pushed.mode = b.mode := by simp only [hpushed, mapTargets_mode, Blk.setSp_mode, saveAt_mode]
  have hpop : applyPop 1 pushed = .ok ((pushed.setSp b.sp).restoreFrom b.sp) := by
    have hcap : pushed.sp - 1 < pushed.mode.cap := by rwa [hsp, hmode]
    rw [applyPop_of_lt_cap (by omega) hcap, hsp, Nat.add_sub_cancel]
  have hcurrent := restoreFrom_mapTargets_saveAt_current hlt f (b.sp + 1) b.sp
  refine ⟨_, hpop, hcurrent .projection, hcurrent .position, hcurrent .vector, hcurrent .texture, ?_, ?_, ?_⟩
  · simp only [← sp_eq_pointer, restoreFrom_sp, setSp_sp]
  · simp only [hpushed, restoreFrom_overflow, Blk.setSp_overflow, mapTargets_overflow, saveAt_overflow]
  · simp only [hpushed, restoreFrom_underflow, Blk.setSp_underflow, mapTargets_underflow, saveAt_underflow]

end Sys2Proof.Machine
end

section
/-! SUPPORT. The proofs of the statements about the GXSTAT bridge (43_gxstat_bridge.md): the value of GXSTAT (O12), the
trigger condition (O30) and the deliveries it schedules (O28, O29), TESTSET (O32), TICK (O26, O27), and that no geometry
rule reads the interrupt registers (O25). -/

namespace Sys2Proof.Machine

/-! ### The value of GXSTAT (R262) -/

/-- A flag shifted to bit `n` is that bit of its word, and no other. -/
theorem flagWord_shiftLeft_bit {n j : Nat} (f : Bool) (hj : j < 32) :
    (flagWord f <<< n).getLsbD j = (decide (j = n) && f) := by
  by_cases h : j = n
  · subst h
    cases f <;> simp [flagWord, hj]
  · rw [flagWord_shiftLeft_getLsbD f h, decide_eq_false h, Bool.false_and]

/-- R262, bit by bit. -/
theorem gxstatValue_getLsbD (b : Blk) {j : Nat} (hj : j < 32) :
    b.gxstatValue.getLsbD j =
      (b.test.getLsbD j || (decide (j = 14) && b.underflow) || (decide (j = 15) && b.overflow) ||
        (decide (16 ≤ j) && b.countField.testBit (j - 16)) || (decide (j = 27) && b.busy) ||
        (decide (30 ≤ j) && b.irqMode.getLsbD (j - 30))) := by
  have hsub (n : Nat) : j - n < 32 := by omega
  have hle (n : Nat) : (!decide (j < n)) = decide (n ≤ j) := by rw [← decide_not, decide_eq_decide, Nat.not_lt]
  simp only [Blk.gxstatValue, BitVec.getLsbD_or, flagWord_shiftLeft_bit _ hj, BitVec.getLsbD_shiftLeft,
    BitVec.getLsbD_setWidth, BitVec.getLsbD_ofNat, hj, hsub, hle, decide_true, Bool.true_and]

/-- R31: the COUNT field has nine bits. -/
theorem countField_testBit {b : Blk} {n : Nat} (h : 9 ≤ n) : b.countField.testBit n = false := by
  have hlt : b.countField < 2 ^ 9 := Nat.lt_succ_of_le (Nat.min_le_right _ _)
  exact Nat.testBit_lt_two_pow (hlt.trans_le (Nat.pow_le_pow_right (by decide) h))

/-- A range of bits is read off bit by bit. -/
theorem extractLsb'_eq_of_getLsbD {w n len : Nat} {y : BitVec w} {x : BitVec len}
    (h : ∀ i, i < len → y.getLsbD (n + i) = x.getLsbD i) : y.extractLsb' n len = x := by
  apply BitVec.eq_of_getLsbD_eq
  intro i hi
  rw [BitVec.getLsbD_extractLsb', h i hi, decide_eq_true hi, Bool.true_and]

/-- R262: a range of bits that belongs to no field is 0. -/
theorem gxstatValue_reserved (b : Blk) {n len : Nat}
    (h : (2 ≤ n ∧ n + len ≤ 14) ∨ (25 ≤ n ∧ n + len ≤ 27) ∨ (28 ≤ n ∧ n + len ≤ 30)) :
    b.gxstatValue.extractLsb' n len = 0#len := by
  refine extractLsb'_eq_of_getLsbD fun i hi => ?_
  have htest : b.test.getLsbD (n + i) = false := BitVec.getLsbD_of_ge _ _ (by omega)
  have hcount : (decide (16 ≤ n + i) && b.countField.testBit (n + i - 16)) = false := by
    by_cases h16 : 16 ≤ n + i
    · rw [countField_testBit (by omega), Bool.and_false]
    · rw [decide_eq_false h16, Bool.false_and]
  rw [gxstatValue_getLsbD b (by omega), htest, hcount]
  simp [show n + i ≠ 14 by omega, show n + i ≠ 15 by omega, show n + i ≠ 27 by omega, show ¬ 30 ≤ n + i by omega]

/-- R262: bits 1:0 are TEST. -/
theorem gxstatValue_test (b : Blk) : b.gxstatValue.extractLsb' 0 2 = b.test := by
  refine extractLsb'_eq_of_getLsbD fun i hi => ?_
  rw [gxstatValue_getLsbD b (by omega), Nat.zero_add]
  simp [show i ≠ 14 by omega, show i ≠ 15 by omega, show i ≠ 27 by omega, show ¬ 16 ≤ i by omega,
    show ¬ 30 ≤ i by omega]

/-- R262: bits 31:30 are IRQ_MODE. -/
theorem gxstatValue_irqMode (b : Blk) : b.gxstatValue.extractLsb' 30 2 = b.irqMode := by
  refine extractLsb'_eq_of_getLsbD fun i hi => ?_
  have htest : b.test.getLsbD (30 + i) = false := BitVec.getLsbD_of_ge _ _ (by omega)
  rw [gxstatValue_getLsbD b (by omega), htest, countField_testBit (by omega), Nat.add_sub_cancel_left]
  simp [show 30 + i ≠ 14 by omega, show 30 + i ≠ 15 by omega, show 30 + i ≠ 27 by omega]

/-- R262: bits 14, 15 and 27 are UNDERFLOW, OVERFLOW and BUSY. -/
theorem gxstatValue_flags (b : Blk) :
    b.gxstatValue.getLsbD 14 = b.underflow ∧ b.gxstatValue.getLsbD 15 = b.overflow ∧
    b.gxstatValue.getLsbD 27 = b.busy := by
  have htest (j : Nat) (hj : 2 ≤ j) : b.test.getLsbD j = false := BitVec.getLsbD_of_ge _ _ hj
  refine ⟨?_, ?_, ?_⟩
  · rw [gxstatValue_getLsbD b (by decide), htest 14 (by decide)]
    simp
  · rw [gxstatValue_getLsbD b (by decide), htest 15 (by decide)]
    simp
  · rw [gxstatValue_getLsbD b (by decide), htest 27 (by decide), countField_testBit (by decide)]
    simp

/-- Settles O12. -/
theorem gxstatValueHasItsFields : Obligations.GxstatValueHasItsFields := by
  intro b
  obtain ⟨hunderflow, hoverflow, hbusy⟩ := gxstatValue_flags b
  refine ⟨gxstatValue_test b, gxstatValue_reserved b (by decide), hunderflow, hoverflow, ?_,
    gxstatValue_reserved b (by decide), ?_, gxstatValue_reserved b (by decide), gxstatValue_irqMode b⟩
  · rw [gxstatValue_count, BitVec.toNat_ofNat]
    exact Nat.mod_eq_of_lt (Nat.lt_succ_of_le (Nat.min_le_right _ _))
  · rw [hbusy]
    exact decide_eq_true_iff

/-! ### The trigger condition (R263) -/

/-- Settles O30, mode by mode. -/
theorem triggerConditionFollowsTheMode : Obligations.TriggerConditionFollowsTheMode := by
  refine fun b => ⟨fun hm => ?_, fun hm => ?_, fun hm => ?_, fun hm => ?_⟩ <;> rw [Blk.cond, hm]
  · rfl
  · exact decide_eq_true_iff
  · have hempty : b.empty = true ↔ b.queue.length + b.pipe.length = 0 := beq_iff_eq
    simpa using hempty
  · rfl

/-! ### Scheduling and TEST along an operation (R264, R270) -/

/-- What an operation that is no TICK, TESTSET or RESET may do to TEST, `pending` and `prev_cond`: it keeps TEST, and
schedules at most one delivery, on a false-to-true change of the condition (R264, R270). -/
structure BridgeStep (delay : Nat) (b b' : Blk) : Prop where
  test : b'.test = b.test
  pending : b'.pending = b.pending ∨
    (b'.pending = b.pending ++ [delay] ∧ b.prevCond = false ∧ b'.prevCond = true ∧ b'.cond = true)

/-- A change that touches neither TEST nor `pending`. -/
theorem BridgeStep.of_unchanged {d : Nat} {b b' : Blk} (htest : b'.test = b.test := by rfl)
    (hpend : b'.pending = b.pending := by rfl) : BridgeStep d b b' :=
  ⟨htest, .inl hpend⟩

/-- A change that leaves the bridge's fields, followed by Recompute (R264). -/
theorem BridgeStep.of_recompute {d : Nat} {b b' : Blk} (htest : b'.test = b.test := by rfl)
    (hpend : b'.pending = b.pending := by rfl) (hprev : b'.prevCond = b.prevCond := by rfl) :
    BridgeStep d b (b'.recompute d) := by
  obtain ⟨hcond, hrec⟩ := recompute_cond d b'
  refine ⟨(Blk.recompute_test ..).trans htest, ?_⟩
  rcases recompute_pending_cases d b' with e | ⟨e, hfalse, htrue⟩
  · exact .inl (e.trans hpend)
  · exact .inr ⟨e.trans (congrArg (· ++ [d]) hpend), hprev.symm.trans hfalse, hrec.trans htrue, hcond.trans htrue⟩

/-- A bus read recomputes nothing (R158). -/
theorem busRead_bridgeStep (d : Nat) (pg : Page) (addr : Addr) (s : State) :
    BridgeStep d s.blk (s.busRead pg addr).blk := by
  rcases busRead_cases pg addr s with ⟨v, e⟩ | e | e <;> rw [e] <;> exact .of_unchanged

/-- A bus write recomputes for GXSTAT alone, and does not change TEST (R159, R270). -/
theorem busWrite_bridgeStep (pg : Page) (addr : Addr) (v : Byte) (s : State) :
    BridgeStep s.cfg.gxIrqDelay s.blk (s.busWrite pg addr v).blk := by
  rcases busWrite_cases pg addr v s with ⟨r, k, -, e⟩ | e | e <;> rw [e]
  · cases r with
    | gxstat =>
      obtain ⟨u, o, m, eg⟩ := writeGxstat_frame s.cfg.gxIrqDelay k v s.blk
      rw [State.ok_blk, writeReg, eg]
      exact .of_recompute
    | _ => exact .of_unchanged
  · exact .of_unchanged
  · exact .of_unchanged

/-- An Enqueue that stores its entry recomputes (R180). -/
theorem enqueue_bridgeStep (e : Entry) (s : State) : BridgeStep s.cfg.gxIrqDelay s.blk (s.enqueue e).blk := by
  rcases enqueue_cases e s with ⟨r, -, eq⟩ | ⟨-, -, eq⟩ | ⟨-, -, -, eq⟩ | ⟨-, -, -, eq⟩ <;> rw [eq]
  · exact .of_unchanged
  · exact .of_recompute
  · exact .of_recompute
  · exact .of_unchanged

/-- An execution step recomputes once, after its command (R183, R265). -/
theorem finishExec_bridgeStep {em : List Entry} {a : Applied} {s : State} (htest : a.blk.test = s.blk.test)
    (hpend : a.blk.pending = s.blk.pending) (hprev : a.blk.prevCond = s.blk.prevCond) :
    BridgeStep s.cfg.gxIrqDelay s.blk (s.finishExec em a).blk := by
  have hstep := BridgeStep.of_recompute (d := s.cfg.gxIrqDelay) htest hpend hprev
  rcases finishExec_cases em a s with ⟨b, rfl, e⟩ | ⟨f, b, rfl, e⟩ <;> rw [e]
  · exact hstep
  · exact ⟨hstep.test, hstep.pending⟩

/-- All an operation can do to the bridge's fields. -/
theorem exec_bridge_cases {s t : State} {i : Instr} (h : exec i s = .next t) :
    BridgeStep s.cfg.gxIrqDelay s.blk t.blk ∨
    (i = .tick ∧ t.blk = s.blk.tick s.cfg.gxIrqSource) ∨
    (∃ v, i = .testset v ∧ t.blk = { s.blk with test := v.extractLsb' 0 2 }) ∨ i = .reset := by
  rcases exec_next_cases h with ⟨pg, addr, -, rfl⟩ | ⟨pg, addr, v, -, rfl⟩ | ⟨e, -, rfl⟩ |
    ⟨-, e, rest, c, -, -, -, rfl⟩ | ⟨hi, rfl⟩ | ⟨src, -, ⟨-, rfl⟩ | ⟨-, rfl⟩⟩ | ⟨v, hi, rfl⟩ | ⟨-, rfl⟩ | ⟨hi, -⟩ |
    ⟨code, -, rfl⟩
  · exact .inl (busRead_bridgeStep _ pg addr s)
  · exact .inl (busWrite_bridgeStep pg addr v s)
  · exact .inl (enqueue_bridgeStep e s)
  · exact .inl (finishExec_bridgeStep (by simp) (by simp) (by simp))
  · exact .inr (.inl ⟨hi, rfl⟩)
  · exact .inl .of_unchanged
  · exact .inl .of_unchanged
  · exact .inr (.inr (.inl ⟨v, hi, rfl⟩))
  · exact .inl .of_unchanged
  · exact .inr (.inr (.inr hi))
  · exact .inl .of_unchanged

/-- Settles O29. -/
theorem schedulingIsEdgeTriggered : Obligations.SchedulingIsEdgeTriggered := by
  intro s t i h htick hreset
  rcases exec_bridge_cases h with hstep | ⟨hi, -⟩ | ⟨v, -, e⟩ | hi
  · exact hstep.pending
  · exact absurd hi htick
  · exact .inl (by rw [e])
  · exact absurd hi hreset

/-- Settles O28: what an operation schedules goes to the end. -/
theorem deliveriesAreNeverCancelled : Obligations.DeliveriesAreNeverCancelled := by
  intro s t i h htick hreset
  rcases schedulingIsEdgeTriggered s t i h htick hreset with e | ⟨e, -⟩ <;> rw [e]
  exact List.prefix_append _ _

/-- Settles O32. -/
theorem testsetWritesTheTestFlags : Obligations.TestsetWritesTheTestFlags := by
  refine ⟨fun s v => ⟨rfl, rfl⟩, fun s t i h hne => ?_⟩
  rcases exec_bridge_cases h with hstep | ⟨-, e⟩ | ⟨v, hi, -⟩ | hi
  · exact absurd hstep.test hne
  · exact absurd (by rw [e, Blk.tick_test]) hne
  · exact .inl ⟨v, hi⟩
  · exact .inr hi

/-! ### TICK (R267, R268) -/

/-- The tick in full: every delivery loses a tick, and those due are made as one. -/
theorem tick_eq (src : Fin 14) (b : Blk) :
    b.tick src = { b with
      pending := (b.pending.filter fun p => decide (p > 1)).map fun p => p - 1
      IF := if ∃ p ∈ b.pending, p ≤ 1 then b.IF ||| ((1 : BitVec 14) <<< src.val) else b.IF } := by
  have hdue : b.pending.any (· ≤ 1) = true ↔ ∃ p ∈ b.pending, p ≤ 1 := by simp
  unfold Blk.tick
  by_cases h : ∃ p ∈ b.pending, p ≤ 1
  · rw [if_pos (hdue.2 h), if_pos h]
    rfl
  · rw [if_neg (mt hdue.1 h), if_neg h]

/-- Settles O26. -/
theorem tickDecrementsAndDelivers : Obligations.TickDecrementsAndDelivers := by
  refine fun s operand => ⟨rfl, ?_⟩
  rw [← tick_eq]
  rfl

/-- The state after a TICK. -/
def State.ticked (s : State) : State := s.ok (s.blk.tick s.cfg.gxIrqSource) .done

/-- TICKs in a row are the rest of them after the first (R89). -/
theorem execAll_tick_succ (n : Nat) (s : State) :
    execAll (List.replicate (n + 1) .tick) s = execAll (List.replicate n .tick) s.ticked := rfl

/-- A delivery with more than one tick left loses one (R267). -/
theorem mem_ticked_pending {s : State} {p : Nat} : p ∈ s.ticked.blk.pending ↔ 1 ≤ p ∧ p + 1 ∈ s.blk.pending := by
  simp only [State.ticked, State.ok_blk, Blk.tick_pending, List.mem_map, List.mem_filter, decide_eq_true_eq]
  constructor
  · rintro ⟨q, ⟨hq, hlt⟩, rfl⟩
    exact ⟨by omega, by rwa [Nat.sub_add_cancel hlt.le]⟩
  · exact fun ⟨hp, hq⟩ => ⟨p + 1, ⟨hq, by omega⟩, rfl⟩

/-- A tick makes a delivery that is due (R268). -/
theorem ticked_IF_of_due {s : State} {p : Nat} (hp : p ∈ s.blk.pending) (hle : p ≤ 1) :
    s.ticked.blk.IF.getLsbD s.cfg.gxIrqSource.val = true := by
  rw [State.ticked, State.ok_blk, tick_eq]
  simp only [if_pos (⟨p, hp, hle⟩ : ∃ p ∈ s.blk.pending, p ≤ 1), or_bit_getLsbD _ _ _ s.cfg.gxIrqSource.isLt, decide_true,
    Bool.or_true]

/-- A tick with nothing due leaves Request alone (R267). -/
theorem ticked_IF_of_not_due {s : State} (h : ∀ p ∈ s.blk.pending, 1 < p) : s.ticked.blk.IF = s.blk.IF := by
  have hdue : ¬ ∃ p ∈ s.blk.pending, p ≤ 1 := fun ⟨p, hp, hle⟩ => absurd (h p hp) (Nat.not_lt.2 hle)
  rw [State.ticked, State.ok_blk, tick_eq]
  exact if_neg hdue

/-- A delivery with `n + 1` ticks left is made by the TICK after `n` others. -/
theorem execAll_tick_delivers {n : Nat} {s : State} (hmem : n + 1 ∈ s.blk.pending) :
    ∃ t, execAll (List.replicate (n + 1) .tick) s = .next t ∧ t.blk.IF.getLsbD s.cfg.gxIrqSource.val = true := by
  induction n generalizing s with
  | zero => exact ⟨s.ticked, rfl, ticked_IF_of_due hmem le_rfl⟩
  | succ n ih =>
    rw [execAll_tick_succ]
    exact ih (s := s.ticked) (mem_ticked_pending.2 ⟨by omega, hmem⟩)

/-- TICKs fewer than every delivery has left change nothing of Request. -/
theorem execAll_tick_quiet {n : Nat} {s : State} (h : ∀ p ∈ s.blk.pending, n < p) :
    ∃ t, execAll (List.replicate n .tick) s = .next t ∧ t.blk.IF = s.blk.IF := by
  induction n generalizing s with
  | zero => exact ⟨s, rfl, rfl⟩
  | succ n ih =>
    have hlate : ∀ p ∈ s.ticked.blk.pending, n < p := fun p hp =>
      Nat.lt_of_succ_lt_succ (h _ (mem_ticked_pending.1 hp).2)
    have hfirst : s.ticked.blk.IF = s.blk.IF := ticked_IF_of_not_due fun p hp => by have := h p hp; omega
    obtain ⟨t, ht, hIF⟩ := ih hlate
    exact ⟨t, ht, hIF.trans hfirst⟩

/-- Settles O27. -/
theorem deliveryIsMadeByTheDthTick : Obligations.DeliveryIsMadeByTheDthTick := by
  intro s d hd hmem
  obtain ⟨n, rfl⟩ := Nat.exists_eq_add_of_le' hd
  exact ⟨execAll_tick_delivers hmem, fun hall m hm => execAll_tick_quiet fun p hp => hm.trans_le (hall p hp)⟩

/-! ### The interrupt registers are not read (R268, R296)

Each operation commutes with replacing IE, IME and IF, up to what the three then hold and what it returns. -/

/-- `s` with other interrupt registers. -/
def State.withIrq (ie : BitVec 14) (ime : BitVec 1) (ifr : BitVec 14) (s : State) : State :=
  { s with blk := withIrqRegs ie ime ifr s.blk }

/-- `t'` is `t` but for the interrupt registers and the value returned. -/
def AgreesButIrq (t t' : State) : Prop :=
  ∃ ie ime ifr r, t' = { t with result := r, blk := withIrqRegs ie ime ifr t.blk }

section
variable (ie : BitVec 14) (ime : BitVec 1) (ifr : BitVec 14)

/-- Recompute reads no interrupt register (R264). -/
theorem recompute_withIrqRegs (d : Nat) (b : Blk) :
    (withIrqRegs ie ime ifr b).recompute d = withIrqRegs ie ime ifr (b.recompute d) := by
  rw [recompute_eq, recompute_eq]
  rfl

/-- A register's write changes an interrupt register at most to another value of that register. -/
theorem writeReg_withIrqRegs (d : Nat) (r : Register) (k : Nat) (v : Byte) (b : Blk) :
    ∃ ie' ime' ifr', writeReg d r k v (withIrqRegs ie ime ifr b) = withIrqRegs ie' ime' ifr' (writeReg d r k v b) := by
  cases r with
  | gxstat =>
    refine ⟨ie, ime, ifr, ?_⟩
    rw [writeReg, writeGxstat, writeReg, writeGxstat, ← recompute_withIrqRegs]
    congr 1
    split
    · rfl
    · split <;> rfl
  | _ => exact ⟨_, _, _, rfl⟩

/-- A bus read uses the interrupt registers for the byte it returns only (R150). -/
theorem busRead_withIrq (pg : Page) (addr : Addr) (s : State) :
    AgreesButIrq (s.busRead pg addr) ((s.withIrq ie ime ifr).busRead pg addr) := by
  have hcfg : (s.withIrq ie ime ifr).cfg = s.cfg := rfl
  unfold State.busRead
  rw [hcfg]
  split
  · split <;> exact ⟨ie, ime, ifr, _, rfl⟩
  · exact ⟨ie, ime, ifr, _, rfl⟩

/-- A bus write uses the interrupt registers for their own new value only (R151). -/
theorem busWrite_withIrq (pg : Page) (addr : Addr) (v : Byte) (s : State) :
    AgreesButIrq (s.busWrite pg addr v) ((s.withIrq ie ime ifr).busWrite pg addr v) := by
  have hcfg : (s.withIrq ie ime ifr).cfg = s.cfg := rfl
  unfold State.busWrite
  rw [hcfg]
  split
  · split
    case h_1 r k _ =>
      obtain ⟨ie', ime', ifr', e⟩ := writeReg_withIrqRegs ie ime ifr s.cfg.gxIrqDelay r k v s.blk
      exact ⟨ie', ime', ifr', .done, congrArg ((s.withIrq ie ime ifr).ok · .done) e⟩
    case h_2 => exact ⟨ie, ime, ifr, _, rfl⟩
  · exact ⟨ie, ime, ifr, _, rfl⟩

/-- Enqueue reads no interrupt register (R180). -/
theorem enqueue_withIrq (e : Entry) (s : State) :
    (s.withIrq ie ime ifr).enqueue e = (s.enqueue e).withIrq ie ime ifr := by
  have hpipe : (s.withIrq ie ime ifr).blk.pipe = s.blk.pipe := rfl
  have hqueue : (s.withIrq ie ime ifr).blk.queue = s.blk.queue := rfl
  unfold State.enqueue
  rw [hpipe, hqueue]
  split
  · rfl
  · split
    · exact congrArg ((s.withIrq ie ime ifr).ok · .accepted)
        (recompute_withIrqRegs ie ime ifr _ { s.blk with pipe := s.blk.pipe ++ [e] })
    · split
      · exact congrArg ((s.withIrq ie ime ifr).ok · .accepted)
          (recompute_withIrqRegs ie ime ifr _ { s.blk with queue := s.blk.queue ++ [e] })
      · rfl

/-- A command reads and writes the engine only, so no interrupt register (R213-R221). -/
theorem applyCommand_withIrqRegs (o : MulOrder) (c : Command) (b : Blk) :
    applyCommand o c (withIrqRegs ie ime ifr b) = (applyCommand o c b).mapBlk (withIrqRegs ie ime ifr) := by
  have he : EngineOnly b (applyCommand o c b).blk := applyCommand_engineOnly o c b
  have hc : applyCommand o c (withIrqRegs ie ime ifr b) =
      (applyCommand o c b).mapBlk (withEngine (withIrqRegs ie ime ifr b)) :=
    applyCommand_withEngine (w := withIrqRegs ie ime ifr b) o c b
  have hw (b' : Blk) (h : EngineOnly b b') : withEngine (withIrqRegs ie ime ifr b) b' = withIrqRegs ie ime ifr b' := by
    conv_rhs => rw [h.eq]
    rfl
  rw [hc]
  cases ha : applyCommand o c b <;> rw [ha] at he
  case ok b' => exact congrArg Applied.ok (hw b' he)
  case raised f b' => exact congrArg (Applied.raised f) (hw b' he)

/-- The end of an execution step reads no interrupt register (R183). -/
theorem finishExec_withIrq (em : List Entry) (a : Applied) (s : State) :
    (s.withIrq ie ime ifr).finishExec em (a.mapBlk (withIrqRegs ie ime ifr)) =
      (s.finishExec em a).withIrq ie ime ifr := by
  cases a with
  | ok b => simp only [State.finishExec, Applied.mapBlk, recompute_withIrqRegs]; rfl
  | raised f b => simp only [State.finishExec, Applied.mapBlk, recompute_withIrqRegs]; rfl

/-- The same state with other interrupt registers. -/
theorem agreesButIrq_withIrq (t : State) : AgreesButIrq t (t.withIrq ie ime ifr) := ⟨ie, ime, ifr, t.result, rfl⟩

/-- An operation from a state with other interrupt registers goes to a next state that agrees but for those. -/
theorem exec_withIrq {s t : State} {i : Instr} (h : exec i s = .next t) :
    ∃ t', exec i (s.withIrq ie ime ifr) = .next t' ∧ AgreesButIrq t t' := by
  rcases exec_next_cases h with ⟨pg, addr, hi, rfl⟩ | ⟨pg, addr, v, hi, rfl⟩ | ⟨e, hi, rfl⟩ |
    ⟨rfl, e, rest, c, hf, hp, hc, rfl⟩ | ⟨rfl, rfl⟩ | ⟨src, rfl, ht⟩ | ⟨v, rfl, rfl⟩ | ⟨rfl, rfl⟩ | ⟨rfl, rfl⟩ |
    ⟨code, rfl, rfl⟩
  · exact ⟨_, exec_busAccess hi _, busRead_withIrq ie ime ifr pg addr s⟩
  · exact ⟨_, exec_busAccess hi _, busWrite_withIrq ie ime ifr pg addr v s⟩
  · refine ⟨_, exec_cmdEntry hi _, ?_⟩
    rw [enqueue_withIrq]
    exact agreesButIrq_withIrq ie ime ifr _
  · refine ⟨_, (exec_exec (s := s.withIrq ie ime ifr) hf hp hc).trans ?_, agreesButIrq_withIrq ie ime ifr _⟩
    rw [← finishExec_withIrq, ← applyCommand_withIrqRegs]
    simp only [takeHead_eq]
    rfl
  · refine ⟨_, rfl, ?_⟩
    simp only [tick_eq]
    exact ⟨ie, ime, _, .done, rfl⟩
  · refine ⟨_, rfl, ?_⟩
    rcases ht with ⟨hgt, rfl⟩ | ⟨hle, rfl⟩
    · rw [if_pos hgt]
      exact ⟨ie, ime, ifr, _, rfl⟩
    · rw [if_neg hle.not_gt]
      exact ⟨ie, ime, _, _, rfl⟩
  · exact ⟨_, rfl, ie, ime, ifr, _, rfl⟩
  · exact ⟨_, rfl, ie, ime, ifr, _, rfl⟩
  · exact ⟨_, rfl, 0, 0, 0, _, rfl⟩
  · exact ⟨_, rfl, ie, ime, ifr, _, rfl⟩

end

/-- Settles O25. -/
theorem geometryIgnoresInterruptRegisters : Obligations.GeometryIgnoresInterruptRegisters := by
  intro s t i ie ime ifr h
  obtain ⟨t', ht', ie', ime', ifr', r, rfl⟩ := exec_withIrq ie ime ifr h
  exact ⟨_, ht', rfl, rfl, rfl, rfl, rfl, rfl⟩

end Sys2Proof.Machine
end

section
/-! SUPPORT. The proofs of the statements about the interrupt controller (44_interrupt_controller.md): the reads and
writes of Enable, MasterEnable and Request (O18-O21), RAISE (O22), POLL (O23), and that none of them changes the
geometry side (O24). -/

namespace Sys2Proof.Machine

/-! ### The words of the interrupt registers' bytes (R119) -/

/-- The words of an offset of the IRQ page encode its two operations, wherever TextureParams is: the words of its rows
have bit 13 clear. -/
theorem busEncodes_irq {tex : Option Offset} {off : Offset} {wordRd wordWr : BusWord}
    {rd wr : PageSel → Byte → Instr}
    (hword : wordRd = busWordOf .irq false off ∧ wordWr = busWordOf .irq true off)
    (hrd : ∀ sel v, busInstr tex .irq false sel off v = rd sel v)
    (hwr : ∀ sel v, busInstr tex .irq true sel off v = wr sel v) :
    BusEncodes tex wordRd rd ∧ BusEncodes tex wordWr wr := by
  obtain ⟨rfl, rfl⟩ := hword
  exact ⟨busEncodes_of_decodeBusWord fun sel v => (decodeBusWord_eq (pg := .irq) nofun ..).trans (hrd sel v),
    busEncodes_of_decodeBusWord fun sel v => (decodeBusWord_eq (pg := .irq) nofun ..).trans (hwr sel v)⟩

/-- R119: the words of the bytes of MasterEnable. -/
theorem busEncodes_masterEnable (tex : Option Offset) (k : BitVec 2) :
    BusEncodes tex (0x2208 + k.setWidth 14) (fun sel _ => .rd8MasterEnable sel k) ∧
    BusEncodes tex (0x3208 + k.setWidth 14) (fun sel v => .wr8MasterEnable sel k v) :=
  busEncodes_irq (off := offsetOf Config.masterEnableOffset k) (by revert k; decide) (fun _ _ => by simp [busInstr])
    fun _ _ => by simp [busInstr]

/-- R119: the words of the bytes of Enable. -/
theorem busEncodes_enable (tex : Option Offset) (k : BitVec 2) :
    BusEncodes tex (0x2210 + k.setWidth 14) (fun sel _ => .rd8Enable sel k) ∧
    BusEncodes tex (0x3210 + k.setWidth 14) (fun sel v => .wr8Enable sel k v) :=
  busEncodes_irq (off := offsetOf Config.enableOffset k) (by revert k; decide) (fun _ _ => by simp [busInstr])
    fun _ _ => by simp [busInstr]

/-- R119: the words of the bytes of Request. -/
theorem busEncodes_request (tex : Option Offset) (k : BitVec 2) :
    BusEncodes tex (0x2214 + k.setWidth 14) (fun sel _ => .rd8Request sel k) ∧
    BusEncodes tex (0x3214 + k.setWidth 14) (fun sel v => .wr8Request sel k v) :=
  busEncodes_irq (off := offsetOf Config.requestOffset k) (by revert k; decide) (fun _ _ => by simp [busInstr])
    fun _ _ => by simp [busInstr]

/-! ### Reads and writes (O18, O19, O20, O21) -/

/-- Settles O18. -/
theorem interruptRegisterReadsReturnTheirByte : Obligations.InterruptRegisterReadsReturnTheirByte := by
  intro s sel k hsel
  exact ⟨⟨(busEncodes_enable _ k).1, exec_read_mapped hsel (regAt_enable _ k) rfl⟩,
    ⟨(busEncodes_masterEnable _ k).1, exec_read_mapped hsel (regAt_masterEnable _ k) rfl⟩,
    ⟨(busEncodes_request _ k).1, exec_read_mapped hsel (regAt_request _ k) rfl⟩⟩

/-- Settles O19: the mask of the 14 sources is the truncation to Enable's width. -/
theorem writeEnableReplacesItsByteMasked : Obligations.WriteEnableReplacesItsByteMasked :=
  fun _ _ k _ hsel =>
    ⟨(busEncodes_enable _ k).2, _, exec_write_mapped hsel (regAt_enable _ k) rfl, setWidth_32_mask14 _⟩

/-- Settles O20: the mask of bit 0 is the truncation to MasterEnable's width. -/
theorem writeMasterEnableKeepsBitZero : Obligations.WriteMasterEnableKeepsBitZero :=
  fun _ _ k _ hsel =>
    ⟨(busEncodes_masterEnable _ k).2, _, exec_write_mapped hsel (regAt_masterEnable _ k) rfl, setWidth_32_mask1 _⟩

/-- Bit `j` of a byte moved to place `k` is that byte's bit when `j` lies in byte `k`, else 0. -/
theorem byte_shiftLeft_getLsbD (v : Byte) (k : Nat) {j : Nat} (hj : j < 32) :
    (v.setWidth 32 <<< (8 * k) : Word).getLsbD j = (decide (j / 8 = k) && v.getLsbD (j % 8)) := by
  rw [BitVec.getLsbD_shiftLeft, BitVec.getLsbD_setWidth]
  by_cases hlo : j < 8 * k
  · have hne : j / 8 ≠ k := by omega
    simp [hlo, hne]
  · by_cases hk : j / 8 = k
    · have hidx : j - 8 * k = j % 8 := by omega
      have hlt : j % 8 < 32 := by omega
      simp [hlo, hj, hk, hidx, hlt]
    · have hout : v.getLsbD (j - 8 * k) = false := BitVec.getLsbD_of_ge _ _ (by omega)
      simp [hk, hout]

/-- R295: WriteIF keeps a Request bit except where its byte is written with a 1. -/
theorem writeIF_getLsbD (k : Nat) (v : Byte) (b : Blk) {j : Nat} (hj : j < 14) :
    (writeIF k v b).IF.getLsbD j = (b.IF.getLsbD j && !(decide (j / 8 = k) && v.getLsbD (j % 8))) := by
  rw [writeIF, BitVec.getLsbD_and, BitVec.getLsbD_not, BitVec.getLsbD_setWidth,
    byte_shiftLeft_getLsbD v k (by omega), decide_eq_true hj, Bool.true_and, Bool.true_and]

/-- Settles O21. -/
theorem writeRequestClearsOnOnes : Obligations.WriteRequestClearsOnOnes :=
  fun s _ k v hsel =>
    ⟨(busEncodes_request _ k).2, _, exec_write_mapped hsel (regAt_request _ k) rfl,
      fun _ hj => writeIF_getLsbD k.toNat v s.blk hj⟩

/-! ### RAISE and POLL (O22, O23) -/

/-- R297: RAISE of one of the 14 sources sets that source's Request bit. -/
theorem exec_raise_source {src : Byte} (h : src.toNat ≤ 13) (s : State) :
    exec (.raise src) s = .next (s.ok { s.blk with IF := s.blk.IF ||| ((1 : BitVec 14) <<< src.toNat) } .done) :=
  congrArg Host.Outcome.next (if_neg h.not_gt)

/-- R297, R323: RAISE of a source above 13 is refused. -/
theorem exec_raise_refused {src : Byte} (h : 13 < src.toNat) (s : State) :
    exec (.raise src) s = .next (s.refuse (.source src)) :=
  congrArg Host.Outcome.next (if_pos h)

/-- Settles O22. -/
theorem raiseSetsItsRequestBit : Obligations.RaiseSetsItsRequestBit :=
  fun s src =>
    ⟨rfl, fun h => ⟨_, exec_raise_source h s, fun _ hj => or_bit_getLsbD s.blk.IF src.toNat _ hj⟩,
      fun h => exec_raise_refused h s⟩

/-- A word has a bit set exactly when it is not zero. -/
theorem ne_zero_iff_getLsbD {w : Nat} {x : BitVec w} : x ≠ 0 ↔ ∃ j, j < w ∧ x.getLsbD j = true := by
  constructor
  · intro h
    have hlowest := BitVec.getLsbD_true_ctz_of_ne_zero h
    exact ⟨_, BitVec.lt_of_getLsbD hlowest, hlowest⟩
  · rintro ⟨j, -, hbit⟩ rfl
    simp at hbit

/-- R298: when the interrupt output is requested, in the bits of the three registers. -/
theorem interruptsRequested_iff (b : Blk) :
    b.interruptsRequested = true ↔
      b.IME = 1 ∧ ∃ j, j < 14 ∧ b.IF.getLsbD j = true ∧ b.IE.getLsbD j = true := by
  have hime : ∀ x : BitVec 1, x ≠ 0 ↔ x = 1 := by decide
  simp only [Blk.interruptsRequested, Bool.and_eq_true, bne_iff_ne, hime, ne_zero_iff_getLsbD, BitVec.getLsbD_and]

/-- Settles O23. -/
theorem pollReturnsThePredicate : Obligations.PollReturnsThePredicate :=
  fun s _ => ⟨rfl, _, rfl, interruptsRequested_iff s.blk⟩

/-! ### The geometry side is left alone (R296) -/

/-- `t` differs from `s` at most in the interrupt registers, the recorded fault, the refusal mark, the diagnostics and
the value returned. -/
def OnlyIrqChanged (s t : State) : Prop :=
  ∃ ie ime ifr f r d res, t = s.ok { s.blk with
    IE := ie, IME := ime, IF := ifr, fault := f, refused := r, diag := d } res

/-- R82: the registers of the IRQ page. -/
theorem regAt_irq_register {tex : Option Offset} {off : Offset} {r : Register} {k : Nat}
    (h : regAt tex .irq off = some (r, k)) : r = .masterEnable ∨ r = .enable ∨ r = .request := by
  rw [regAt] at h
  rcases irqRegAt_cases off with ⟨-, -, e⟩ | ⟨-, -, e⟩ | ⟨-, -, e⟩ | ⟨-, -, e⟩ <;>
    rw [e] at h <;> cases h
  · exact .inl rfl
  · exact .inr (.inl rfl)
  · exact .inr (.inr rfl)

/-- A read changes at most the diagnostics or the recorded fault (R86, R87, R150). -/
theorem busRead_onlyIrqChanged (pg : Page) (addr : Addr) (s : State) : OnlyIrqChanged s (s.busRead pg addr) := by
  rcases busRead_cases pg addr s with ⟨v, e⟩ | e | e <;> rw [e] <;>
    exact ⟨_, _, _, _, _, _, _, rfl⟩

/-- A write on the IRQ page changes at most one interrupt register, the diagnostics or the recorded fault (R86, R87,
R151). -/
theorem busWrite_irq_onlyIrqChanged (addr : Addr) (v : Byte) (s : State) :
    OnlyIrqChanged s (s.busWrite .irq addr v) := by
  rcases busWrite_cases .irq addr v s with ⟨r, k, hr, e⟩ | e | e <;> rw [e]
  · rcases regAt_irq_register hr with rfl | rfl | rfl <;> exact ⟨_, _, _, _, _, _, _, rfl⟩
  · exact ⟨_, _, _, _, _, _, _, rfl⟩
  · exact ⟨_, _, _, _, _, _, _, rfl⟩

/-- RAISE changes at most Request or the refusal mark (R297). -/
theorem exec_raise_onlyIrqChanged (src : Byte) (s : State) :
    ∃ t, exec (.raise src) s = .next t ∧ OnlyIrqChanged s t := by
  rcases le_or_gt src.toNat 13 with h | h
  · exact ⟨_, exec_raise_source h s, _, _, _, _, _, _, _, rfl⟩
  · exact ⟨_, exec_raise_refused h s, _, _, _, _, _, _, _, rfl⟩

/-- Every operation of the interrupt controller completes on its own fields. -/
theorem exec_irq_onlyIrqChanged {s : State} {i : Instr}
    (hi : (∃ addr v, busAccess i = some (.irq, addr, v)) ∨ (∃ src, i = .raise src) ∨ i = .poll) :
    ∃ t, exec i s = .next t ∧ OnlyIrqChanged s t := by
  rcases hi with ⟨addr, v, hi⟩ | ⟨src, rfl⟩ | rfl
  · refine ⟨_, exec_busAccess hi s, ?_⟩
    cases v with
    | none => exact busRead_onlyIrqChanged .irq addr s
    | some v => exact busWrite_irq_onlyIrqChanged addr v s
  · exact exec_raise_onlyIrqChanged src s
  · exact ⟨_, rfl, _, _, _, _, _, _, _, rfl⟩

/-- Settles O24. -/
theorem interruptControllerLeavesGeometryAlone : Obligations.InterruptControllerLeavesGeometryAlone := by
  intro s i hi
  obtain ⟨t, ht, ie, ime, ifr, f, r, d, res, rfl⟩ := exec_irq_onlyIrqChanged hi
  exact ⟨_, ht, rfl, rfl, rfl, rfl, rfl, rfl⟩

end Sys2Proof.Machine
end

section
/-! SUPPORT. The proofs of the statements about exceptions (60_exceptions.md): what a refusal changes (O34), and which
operations always have a next state (O58). -/

namespace Sys2Proof.Machine

/-! ### Refused entries (R182, R323) -/

/-- R182: Check refuses an entry with a refused tag, whatever its words. -/
theorem check_of_isRefusedTag {e : Entry} (h : isRefusedTag e.tag = true) : e.check = some (.tag e.tag) := if_pos h

/-- R182: Check refuses a matrix command with a wrong number of words. -/
theorem check_of_length_ne_arity {e : Entry} {n : Nat} (htag : isRefusedTag e.tag = false)
    (harity : matrixArity e.tag = some n) (hlen : e.params.length ≠ n) :
    e.check = some (.arity e.tag e.params.length) := by
  simp only [Entry.check, htag, harity, Bool.false_eq_true, if_false, if_neg hlen]

/-- A refused entry is refused before either buffer is looked at (R182). -/
theorem enqueue_refused {e : Entry} {r : RefuseKind} (h : e.check = some r) (s : State) :
    s.enqueue e = s.refuse r := by
  rw [State.enqueue, h]

/-- A CMD operation whose entry Check refuses decodes to its row and is refused (R112, R182, R323). -/
theorem decode_exec_cmd_refused {e : Entry} {i : Instr} {r : RefuseKind} (hi : decodeCmd e = i)
    (hr : e.check = some r) (s : State) :
    decode s.cfg.texOffset (.cmd e) = .ok i ∧ exec i s = .next (s.refuse r) := by
  subst hi
  exact ⟨rfl, by rw [exec_cmdEntry (cmdEntry_decodeCmd e), enqueue_refused hr]⟩

/-! ### Refused port codes and configurations (R121, R81) -/

/-- R121: the port codes 0x00 and 0x07-0xFF have no operation. -/
theorem not_isPortCode_of_outside {code : Byte} (h : code.toNat = 0 ∨ 7 ≤ code.toNat) : (!isPortCode code) = true := by
  simp only [isPortCode, Bool.not_eq_true', Bool.and_eq_false_iff, decide_eq_false_iff_not]
  omega

/-- R81: an offset that is no multiple of 4, or whose four bytes overlap another register, is not legal. -/
theorem not_texOffsetLegal_of_overlap {t : Offset}
    (h : t.toNat % 4 ≠ 0 ∨ (0x350 ≤ t.toNat + 3 ∧ t.toNat ≤ 0x355) ∨ (0x600 ≤ t.toNat + 3 ∧ t.toNat ≤ 0x603)) :
    ¬ texOffsetLegal (some t) = true := by
  rw [texOffsetLegal_some]
  omega

/-- R81, R323: an illegal `TEXPARAMS_OFFSET` is refused (log 7). -/
theorem configure_refused {tex : Option Offset} (h : ¬ texOffsetLegal tex = true) (s : State) :
    s.configure tex = s.refuse .config := if_neg h

/-- Settles O34: each kind of R323 answers with `State.refuse`. -/
theorem refusalsOnlySetTheMark : Obligations.RefusalsOnlySetTheMark := by
  refine fun s => ⟨fun i ps t hrow => ?tag, fun i ps t n hrow hlen => ?arity,
    fun src hsrc => exec_raise_refused hsrc s, fun code operand hcode => ?port,
    fun t ht => configure_refused (not_texOffsetLegal_of_overlap ht) s⟩
  case tag =>
    have hdec : decodeCmd ⟨t, ps⟩ = i ∧ isRefusedTag t = true := by
      simp only [List.mem_cons, Prod.mk.injEq, List.not_mem_nil, or_false] at hrow
      rcases hrow with ⟨rfl, rfl⟩ | ⟨rfl, rfl⟩ | ⟨rfl, rfl⟩ | ⟨rfl, rfl⟩ | ⟨rfl, rfl⟩ <;> exact ⟨rfl, rfl⟩
    exact decode_exec_cmd_refused hdec.1 (check_of_isRefusedTag hdec.2) s
  case arity =>
    have hdec : decodeCmd ⟨t, ps⟩ = i ∧ isRefusedTag t = false ∧ matrixArity t = some n := by
      simp only [List.mem_cons, Prod.mk.injEq, List.not_mem_nil, or_false] at hrow
      rcases hrow with ⟨rfl, rfl, rfl⟩ | ⟨rfl, rfl, rfl⟩ | ⟨rfl, rfl, rfl⟩ | ⟨rfl, rfl, rfl⟩ | ⟨rfl, rfl, rfl⟩ |
        ⟨rfl, rfl, rfl⟩ | ⟨rfl, rfl, rfl⟩ | ⟨rfl, rfl, rfl⟩ <;> exact ⟨rfl, rfl, rfl⟩
    obtain ⟨hi, htag, harity⟩ := hdec
    exact decode_exec_cmd_refused hi (check_of_length_ne_arity htag harity hlen) s
  case port =>
    exact ⟨congrArg _ (decodePort_of_not_isPortCode (not_isPortCode_of_outside hcode) operand), rfl⟩

/-! ### No operation changes the parameters (R7) -/

/-- A bus read keeps the parameters. -/
theorem busRead_cfg (pg : Page) (addr : Addr) (s : State) : (s.busRead pg addr).cfg = s.cfg := by
  rcases busRead_cases pg addr s with ⟨v, e⟩ | e | e <;> rw [e] <;> rfl

/-- A bus write keeps the parameters. -/
theorem busWrite_cfg (pg : Page) (addr : Addr) (v : Byte) (s : State) : (s.busWrite pg addr v).cfg = s.cfg := by
  rcases busWrite_cases pg addr v s with ⟨r, k, -, e⟩ | e | e <;> rw [e] <;> rfl

/-- An Enqueue keeps the parameters, in each of its outcomes. -/
theorem enqueue_cfg (e : Entry) (s : State) : (s.enqueue e).cfg = s.cfg := by
  rcases enqueue_cases e s with ⟨r, -, eq⟩ | ⟨-, -, eq⟩ | ⟨-, -, -, eq⟩ | ⟨-, -, -, eq⟩ <;> rw [eq] <;> rfl

/-- The end of an execution step keeps the parameters, whether its command raised a fault or not. -/
theorem finishExec_cfg (em : List Entry) (a : Applied) (s : State) : (s.finishExec em a).cfg = s.cfg := by
  rcases finishExec_cases em a s with ⟨b, -, e⟩ | ⟨f, b, -, e⟩ <;> rw [e]

/-- Every operation keeps the parameters. -/
theorem exec_cfg {s t : State} {i : Instr} (h : exec i s = .next t) : t.cfg = s.cfg := by
  rcases exec_next_cases h with ⟨pg, addr, -, rfl⟩ | ⟨pg, addr, v, -, rfl⟩ | ⟨e, -, rfl⟩ |
    ⟨-, e, rest, c, -, -, -, rfl⟩ | ⟨-, rfl⟩ | ⟨src, -, ⟨-, rfl⟩ | ⟨-, rfl⟩⟩ | ⟨v, -, rfl⟩ | ⟨-, rfl⟩ | ⟨-, rfl⟩ |
    ⟨code, -, rfl⟩
  · exact busRead_cfg pg addr s
  · exact busWrite_cfg pg addr v s
  · exact enqueue_cfg e s
  · exact finishExec_cfg c.emitted _ s
  -- TICK, both cases of RAISE, TESTSET, POLL, RESET and a refused port code update other fields by name.
  all_goals rfl

/-- Settles O58. -/
theorem everyOperationButExecAlwaysSteps : Obligations.EveryOperationButExecAlwaysSteps :=
  ⟨fun s _ hi => exec_ne_exec hi s, fun _ _ _ h => exec_cfg h⟩

end Sys2Proof.Machine
end

section
/-! SUPPORT. The proofs of the statements about reset and hazards (70_reset_and_hazards.md): the matrix engine between
executions (O53), the table RESET establishes (O54), and the state a run starts in (O55). -/

namespace Sys2Proof.Machine

/-! ### The matrix engine between executions (R40, R355) -/

/-- `b'` has the mode, the current matrices, the stacks and the pointers of `b`. -/
def EngineKept (b b' : Blk) : Prop :=
  b' = { b' with
    mode := b.mode, P := b.P, Pos := b.Pos, Vec := b.Vec, T := b.T
    projStack := b.projStack, posStack := b.posStack, vecStack := b.vecStack, texStack := b.texStack
    spProj := b.spProj, spPv := b.spPv, spTex := b.spTex }

/-- Recompute writes the bridge's fields only (R264). -/
theorem recompute_engineKept (d : Nat) (b : Blk) : EngineKept b (b.recompute d) := by
  rw [recompute_eq]
  rfl

/-- A tick writes the pending deliveries and Request only (R267). -/
theorem tick_engineKept (src : Fin 14) (b : Blk) : EngineKept b (b.tick src) := by
  rw [tick_eq]
  rfl

/-- No register holds a field of the matrix engine. -/
theorem writeReg_engineKept (d : Nat) (r : Register) (k : Nat) (v : Byte) (b : Blk) :
    EngineKept b (writeReg d r k v b) := by
  cases r with
  | gxstat =>
    obtain ⟨u, o, m, e⟩ := writeGxstat_frame d k v b
    rw [writeReg, e]
    exact recompute_engineKept d { b with underflow := u, overflow := o, irqMode := m }
  | _ => rfl

/-- A bus read changes at most the diagnostics and the recorded fault (R150). -/
theorem busRead_engineKept (pg : Page) (addr : Addr) (s : State) : EngineKept s.blk (s.busRead pg addr).blk := by
  rcases busRead_cases pg addr s with ⟨v, e⟩ | e | e <;> rw [e] <;> rfl

/-- A bus write changes at most a register, the diagnostics and the recorded fault (R151). -/
theorem busWrite_engineKept (pg : Page) (addr : Addr) (v : Byte) (s : State) :
    EngineKept s.blk (s.busWrite pg addr v).blk := by
  rcases busWrite_cases pg addr v s with ⟨r, k, -, e⟩ | e | e <;> rw [e]
  · exact writeReg_engineKept s.cfg.gxIrqDelay r k v s.blk
  · rfl
  · rfl

/-- An Enqueue stores its entry and applies no command (R180). -/
theorem enqueue_engineKept (e : Entry) (s : State) : EngineKept s.blk (s.enqueue e).blk := by
  rcases enqueue_cases e s with ⟨r, -, eq⟩ | ⟨-, -, eq⟩ | ⟨-, -, -, eq⟩ | ⟨-, -, -, eq⟩ <;> rw [eq]
  · rfl
  · exact recompute_engineKept s.cfg.gxIrqDelay { s.blk with pipe := s.blk.pipe ++ [e] }
  · exact recompute_engineKept s.cfg.gxIrqDelay { s.blk with queue := s.blk.queue ++ [e] }
  · rfl

/-- Every operation but EXEC and RESET keeps the matrix engine. -/
theorem exec_engineKept {s t : State} {i : Instr} (h : exec i s = .next t) (hexec : i ≠ .exec) (hreset : i ≠ .reset) :
    EngineKept s.blk t.blk := by
  rcases exec_next_cases h with ⟨pg, addr, -, rfl⟩ | ⟨pg, addr, v, -, rfl⟩ | ⟨e, -, rfl⟩ | ⟨hi, -⟩ | ⟨-, rfl⟩ |
    ⟨src, -, ⟨-, rfl⟩ | ⟨-, rfl⟩⟩ | ⟨v, -, rfl⟩ | ⟨-, rfl⟩ | ⟨hi, -⟩ | ⟨code, -, rfl⟩
  · exact busRead_engineKept pg addr s
  · exact busWrite_engineKept pg addr v s
  · exact enqueue_engineKept e s
  · exact absurd hi hexec
  · exact tick_engineKept s.cfg.gxIrqSource s.blk
  · rfl
  · rfl
  · rfl
  · rfl
  · exact absurd hi hreset
  · rfl

/-- Settles O53. -/
theorem matrixEngineChangesOnlyAtExec : Obligations.MatrixEngineChangesOnlyAtExec := by
  intro s t i h hexec hreset
  have hkept : EngineKept s.blk t.blk := exec_engineKept h hexec hreset
  rw [hkept]
  exact ⟨rfl, rfl, rfl, rfl, rfl, rfl, rfl, rfl, rfl, rfl, rfl, rfl⟩

/-! ### RESET (R350, R351) -/

/-- R120: PORT 0x06 is RESET, whatever its operand (log 16). -/
theorem decode_port_reset (tex : Option Offset) (operand : Byte) : decode tex (.port 0x06 operand) = .ok .reset := rfl

/-- R350: RESET completes in every state, and changes `S` and the number of the next draw only. -/
theorem exec_reset (s : State) :
    exec .reset s = .next { s with blk := s.blk.afterReset s.draw, result := .done, draw := s.draw + 1 } := rfl

/-- After a RESET no interrupt is enabled or requested, so the output is false (R298). -/
theorem afterReset_interruptsRequested (n : Nat) (b : Blk) : (b.afterReset n).interruptsRequested = false := rfl

/-- After a RESET the buffers are empty, so COUNT and BUSY are 0 like the stored bits of GXSTAT (R262). -/
theorem afterReset_gxstatValue (n : Nat) (b : Blk) : (b.afterReset n).gxstatValue = 0 := by
  have hcount : (b.afterReset n).countField = 0 := rfl
  have hbusy : (b.afterReset n).busy = false := rfl
  rw [Blk.gxstatValue, hcount, hbusy]
  simp [Blk.afterReset, Blk.initial, flagWord]

/-- RESET leaves R54's record when there is no bookkeeping to keep. -/
theorem afterReset_eq_initial {b : Blk} (n : Nat) (hfault : b.fault = none) (hrefused : b.refused = false)
    (hdiag : b.diag = []) : b.afterReset n = Blk.initial n := by
  rw [Blk.afterReset, hfault, hrefused, hdiag]
  rfl

/-- Settles O54: R54's values and the bookkeeping are read off the record `Blk.afterReset` makes. -/
theorem resetEstablishesTheResetTable : Obligations.ResetEstablishesTheResetTable := by
  refine fun s operand => ⟨decode_port_reset _ operand, _, exec_reset s, ?_⟩
  refine ⟨rfl, rfl, rfl, rfl, rfl, rfl, rfl, rfl, rfl, rfl, rfl, rfl, rfl, rfl, rfl,
    rfl, rfl, rfl, rfl, rfl, rfl, rfl, ?output, ?gxstat⟩
  case output => exact afterReset_interruptsRequested s.draw s.blk
  case gxstat => exact afterReset_gxstatValue s.draw s.blk

/-- Settles O55: the reset state's record is draw 0 of R54's table (log 2). -/
theorem runsStartInTheResetState : Obligations.RunsStartInTheResetState := by
  refine ⟨rfl, rfl, rfl, paramsLegal_reset, fun s hdraw hfault hrefused hdiag => ⟨_, exec_reset s, ?_⟩⟩
  rw [hdraw]
  exact afterReset_eq_initial 0 hfault hrefused hdiag

end Sys2Proof.Machine
end
